-- ==== Sys2Proof/Word.lean ====
section
/-! DEFINITION. The words of the core, one name for each number format of 00_scope.md R15 and each token
format of 30_encoding.md R100. -/

namespace Sys2Proof

/-- One byte of a word as an integrator's byte bus stores it (20_memory.md R71 item 1). -/
abbrev Byte := BitVec 8

/-- S4, a symbol token (R101). -/
abbrev Sym := BitVec 4

/-- SAMP, s1.14, two's complement: 1.0 is 16384 (R15). -/
abbrev Samp := BitVec 16

/-- C32 and X32, a complex token: re in bits 15:0, im in bits 31:16 (R102). -/
abbrev CplxWord := BitVec 32

/-- WGT, u1.14: an entry of PSH_W (R15). -/
abbrev Weight := BitVec 15

/-- A16, ANG, s2.13 radians (R15, R103). -/
abbrev Ang := BitVec 16

/-- An entry of ATAN_ROM: radians with 24 fraction bits (10_state.md R32). -/
abbrev FineAngle := BitVec 24

/-- EST, s2.37 (R15). -/
abbrev Est := BitVec 40

/-- B17, DCC, s3.13 (R15, R103). -/
abbrev Dcc := BitVec 17

/-- D18, a decision token: soft value in bits 16:0, hard bit 17 (R103). -/
abbrev DecWord := BitVec 18

/-- GAIN, u0.24 (R15). -/
abbrev Gain := BitVec 24

/-- The 31-bit field of TRC_OMEGA_MID, u7.24 (10_state.md R27). -/
abbrev Mid := BitVec 31

/-- TRC.omega, u8.24 (10_state.md R45). -/
abbrev Period := BitVec 32

/-- TRC.err, s4.13 (10_state.md R45). -/
abbrev Err := BitVec 18

/-- COEF, s1.14: an entry of IROM (R15). -/
abbrev Coef := BitVec 16

/-- The data of a host transaction (R104). -/
abbrev HostData := BitVec 32

/-- The byte address of a host transaction (R104). -/
abbrev HostAddr := BitVec 8

/-- H41, a whole host transaction: we, addr, wdata (R104). -/
abbrev HostWord := BitVec 41

end Sys2Proof
end

