-- ==== Sys2Proof/Syntax.lean ====
section
/-! DEFINITION. The operations of the core as syntax, one constructor for each row of the operation table
(30_encoding.md R107, opcode_table.json), the words that select them, and the turns in which agents act. -/

namespace Sys2Proof

/-- An operation of the core. The operands are the fields of the word that selects it (R100 to R106): the token
it consumes, the sequencing counter, or the fields of the host transaction. -/
inductive Instr where
  /-- SPR.LOAD of the S4 token `sym` (40_chip_spreader.md R132). -/
  | sprLoad (sym : Sym)
  /-- SPR.EMIT of chip `k` (R133). -/
  | sprEmit (k : BitVec 5)
  /-- PSH.LOAD of the C32 token with these parts (41_pulse_shaper.md R152). -/
  | pshLoad (im re : Samp)
  /-- PSH.EMIT of sample `p` (R153). -/
  | pshEmit (p : BitVec 2)
  /-- QDM.STEP on the X32 token with these parts (42_quadrature_demod.md R172). -/
  | qdmStep (im re : Samp)
  /-- DCT.STEP on the A16 token (43_dc_tracker.md R192). -/
  | dctStep (ang : Ang)
  /-- TRC.SHIFT of the B17 token (44_timing_recovery.md R211). -/
  | trcShift (dcc : Dcc)
  /-- TRC.EMIT (R212). -/
  | trcEmit
  /-- HOST.RD; `wdata` is in the word and ignored (45_host_operations.md R241). -/
  | hostRd (addr : HostAddr) (wdata : HostData)
  /-- HOST.WR.CTRL (R243). -/
  | hostWrCtrl (wdata : HostData)
  /-- CMD.NOP (R254). -/
  | cmdNop
  /-- CMD.RESTART_TX (R255). -/
  | cmdRestartTx
  /-- CMD.RESTART_RX (R256). -/
  | cmdRestartRx
  /-- CMD.RESTART_ALL (R257). -/
  | cmdRestartAll
  /-- CMD.RSVD, a reserved command code (R259). -/
  | cmdRsvd (wdata : HostData)
  /-- HOST.WR.STATUS (R246). -/
  | hostWrStatus (wdata : HostData)
  /-- HOST.WR.DCT_ALPHA (R247). -/
  | hostWrDctAlpha (wdata : HostData)
  /-- HOST.WR.TRC_GAIN_MU (R248). -/
  | hostWrTrcGainMu (wdata : HostData)
  /-- HOST.WR.TRC_GAIN_OMEGA (R249). -/
  | hostWrTrcGainOmega (wdata : HostData)
  /-- HOST.WR.TRC_OMEGA_MID (R250). -/
  | hostWrTrcOmegaMid (wdata : HostData)
  /-- HOST.WR.TRC_OMEGA_RLIM (R251). -/
  | hostWrTrcOmegaRlim (wdata : HostData)
  /-- HOST.WR.TRC_MU_INIT (R252). -/
  | hostWrTrcMuInit (wdata : HostData)
  /-- HOST.WR.OTHER: a write to an address that is not writable; `wdata` is dropped (R253). -/
  | hostWrOther (addr : HostAddr) (wdata : HostData)
  /-- RESET, the `rst` input sampled 1 (70_reset_and_hazards.md R350). -/
  | reset
  deriving DecidableEq, Repr

/-- The formats of 30_encoding.md R100, and the format "none" of RESET's table row. -/
inductive Format where
  | s4 | c32 | x32 | a16 | b17 | d18 | h41 | sq6 | pq3 | tq9 | none
  deriving DecidableEq, Repr

/-- A selecting word: the word, in the format it has, from which an agent's next operation is decoded (R105,
R107). A D18 word selects nothing and is here so that the decoder can reject it by name. -/
inductive Key where
  | s4 (w : BitVec 4)
  | c32 (w : BitVec 32)
  | x32 (w : BitVec 32)
  | a16 (w : BitVec 16)
  | b17 (w : BitVec 17)
  | d18 (w : BitVec 18)
  | h41 (w : BitVec 41)
  | sq6 (w : BitVec 6)
  | pq3 (w : BitVec 3)
  | tq9 (w : BitVec 9)
  | rst
  deriving DecidableEq, Repr

/-- Why a word or a list of bytes is no operation. -/
inductive DecodeError where
  /-- An SQ6 or PQ3 word with busy = 0, or a TQ9 word that is not 0: it selects an operation that needs a token,
  so the word alone is no operation (R105). -/
  | needsToken
  /-- A D18 word: the core only produces these (R100). -/
  | notAnInput
  /-- The number of bytes is not the format's. -/
  | badLength
  /-- A bit above the format's width is 1. -/
  | bitsAboveFormat
  deriving DecidableEq, Repr

/-- The five processing units (00_scope.md R2). -/
inductive Unit5 where
  | spr | psh | qdm | dct | trc
  deriving DecidableEq, Repr, Inhabited

/-- One turn of a run: which agent acts next, or what the environment does (20_memory.md R80, 10_state.md R50). -/
inductive Turn where
  /-- The unit takes its next step if one is enabled. -/
  | unit (u : Unit5)
  /-- The host completes this transaction. -/
  | host (w : HostWord)
  /-- `rst` is sampled 1. -/
  | rst
  /-- The environment appends a symbol to SYM_IN. -/
  | offerSym (t : Sym)
  /-- The environment appends a sample to RXS_IN. -/
  | offerRxs (x : CplxWord)
  /-- The environment becomes ready, or not ready, at TXS_OUT. -/
  | txsReady (b : Bool)
  /-- The environment becomes ready, or not ready, at DEC_OUT. -/
  | decReady (b : Bool)
  deriving DecidableEq, Repr, Inhabited

end Sys2Proof
end

