-- ==== Sys2Proof/WellFormed.lean ====
section
/-! DEFINITION. Which terms of `Instr` an H41 word can select. Every field has its format's width by its type;
what is left to check is the two rows that other rows of the table cut holes into. -/

namespace Sys2Proof

/-- The nine writable addresses: a write to any other address is HOST.WR.OTHER (45_host_operations.md R253,
60_exceptions.md R329). -/
def writableAddrs : List HostAddr :=
  [0x04, 0x08, 0x0C, 0x10, 0x14, 0x18, 0x1C, 0x20, 0x24]

/-- `i` is selected by some word: a reserved command is a code from 4 up (R259), and HOST.WR.OTHER is a write to
an address no row with a longer mask takes (R253). -/
def Instr.wf : Instr → Bool
  | .sprLoad _ => true
  | .sprEmit _ => true
  | .pshLoad _ _ => true
  | .pshEmit _ => true
  | .qdmStep _ _ => true
  | .dctStep _ => true
  | .trcShift _ => true
  | .trcEmit => true
  | .hostRd _ _ => true
  | .hostWrCtrl _ => true
  | .cmdNop => true
  | .cmdRestartTx => true
  | .cmdRestartRx => true
  | .cmdRestartAll => true
  | .cmdRsvd wdata => decide (4 ≤ wdata.toNat)
  | .hostWrStatus _ => true
  | .hostWrDctAlpha _ => true
  | .hostWrTrcGainMu _ => true
  | .hostWrTrcGainOmega _ => true
  | .hostWrTrcOmegaMid _ => true
  | .hostWrTrcOmegaRlim _ => true
  | .hostWrTrcMuInit _ => true
  | .hostWrOther addr _ => decide (addr ∉ writableAddrs)
  | .reset => true

/-- The format of the row that `i` stands for, as the operation table gives it. -/
def Instr.format : Instr → Format
  | .sprLoad _ => .s4
  | .sprEmit _ => .sq6
  | .pshLoad _ _ => .c32
  | .pshEmit _ => .pq3
  | .qdmStep _ _ => .x32
  | .dctStep _ => .a16
  | .trcShift _ => .b17
  | .trcEmit => .tq9
  | .hostRd _ _ => .h41
  | .hostWrCtrl _ => .h41
  | .cmdNop => .h41
  | .cmdRestartTx => .h41
  | .cmdRestartRx => .h41
  | .cmdRestartAll => .h41
  | .cmdRsvd _ => .h41
  | .hostWrStatus _ => .h41
  | .hostWrDctAlpha _ => .h41
  | .hostWrTrcGainMu _ => .h41
  | .hostWrTrcGainOmega _ => .h41
  | .hostWrTrcOmegaMid _ => .h41
  | .hostWrTrcOmegaRlim _ => .h41
  | .hostWrTrcMuInit _ => .h41
  | .hostWrOther _ _ => .h41
  | .reset => .none

/-- The format a word has. -/
def Key.format : Key → Format
  | .s4 _ => .s4
  | .c32 _ => .c32
  | .x32 _ => .x32
  | .a16 _ => .a16
  | .b17 _ => .b17
  | .d18 _ => .d18
  | .h41 _ => .h41
  | .sq6 _ => .sq6
  | .pq3 _ => .pq3
  | .tq9 _ => .tq9
  | .rst => .none

end Sys2Proof
end

