-- ==== Sys2Proof/Decode.lean ====
section
/-! DEFINITION. The decoder, total on every word and on every list of bytes, and the encoder, both written from
the format and operation tables of 30_encoding.md. -/

namespace Sys2Proof

/-- The real part of a complex token, bits 15:0 (30_encoding.md R102). -/
def cplxRe (w : CplxWord) : Samp := w.extractLsb' 0 16

/-- The imaginary part of a complex token, bits 31:16 (R102). -/
def cplxIm (w : CplxWord) : Samp := w.extractLsb' 16 16

/-- The complex token with these parts (R102). -/
def packCplx (im re : Samp) : CplxWord := im ++ re

/-- The fields of an H41 word (R104). -/
def hostWe (w : HostWord) : Bool := w.getLsbD 40

/-- See `hostWe`. -/
def hostAddrOf (w : HostWord) : HostAddr := w.extractLsb' 32 8

/-- See `hostWe`. -/
def hostDataOf (w : HostWord) : HostData := w.extractLsb' 0 32

/-- The H41 word with these fields (R104). -/
def packHost (we : Bool) (addr : HostAddr) (wdata : HostData) : HostWord :=
  BitVec.ofBool we ++ (addr ++ wdata)

/-- The command a write to CMD selects, from all 32 bits of the value (R108). -/
def decodeCmd (wdata : HostData) : Instr :=
  if wdata = 0 then .cmdNop
  else if wdata = 1 then .cmdRestartTx
  else if wdata = 2 then .cmdRestartRx
  else if wdata = 3 then .cmdRestartAll
  else .cmdRsvd wdata

/-- The operation a host write selects, by its address (R107). -/
def decodeWrite (addr : HostAddr) (wdata : HostData) : Instr :=
  if addr = 0x04 then .hostWrCtrl wdata
  else if addr = 0x08 then decodeCmd wdata
  else if addr = 0x0C then .hostWrStatus wdata
  else if addr = 0x10 then .hostWrDctAlpha wdata
  else if addr = 0x14 then .hostWrTrcGainMu wdata
  else if addr = 0x18 then .hostWrTrcGainOmega wdata
  else if addr = 0x1C then .hostWrTrcOmegaMid wdata
  else if addr = 0x20 then .hostWrTrcOmegaRlim wdata
  else if addr = 0x24 then .hostWrTrcMuInit wdata
  else .hostWrOther addr wdata

/-- The operation an H41 word selects; every one of the 2^41 words selects one (R107, R110). -/
def decodeHost (w : HostWord) : Instr :=
  if hostWe w then decodeWrite (hostAddrOf w) (hostDataOf w)
  else .hostRd (hostAddrOf w) (hostDataOf w)

/-- The decoder (R105 to R108): the operation a selecting word stands for, or why it stands for none. -/
def decode : Key → Except DecodeError Instr
  | .s4 w => .ok (.sprLoad w)
  | .c32 w => .ok (.pshLoad (cplxIm w) (cplxRe w))
  | .x32 w => .ok (.qdmStep (cplxIm w) (cplxRe w))
  | .a16 w => .ok (.dctStep w)
  | .b17 w => .ok (.trcShift w)
  | .d18 _ => .error .notAnInput
  | .h41 w => .ok (decodeHost w)
  | .sq6 w => if w.getLsbD 5 then .ok (.sprEmit (w.extractLsb' 0 5)) else .error .needsToken
  | .pq3 w => if w.getLsbD 2 then .ok (.pshEmit (w.extractLsb' 0 2)) else .error .needsToken
  | .tq9 w => if w = 0 then .ok .trcEmit else .error .needsToken
  | .rst => .ok .reset

/-- The encoder: the word that selects `i`, from the same tables (R100 to R108, R350 for RESET). -/
def encode : Instr → Key
  | .sprLoad sym => .s4 sym
  | .sprEmit k => .sq6 (BitVec.ofBool true ++ k)
  | .pshLoad im re => .c32 (packCplx im re)
  | .pshEmit p => .pq3 (BitVec.ofBool true ++ p)
  | .qdmStep im re => .x32 (packCplx im re)
  | .dctStep ang => .a16 ang
  | .trcShift dcc => .b17 dcc
  | .trcEmit => .tq9 0
  | .hostRd addr wdata => .h41 (packHost false addr wdata)
  | .hostWrCtrl wdata => .h41 (packHost true 0x04 wdata)
  | .cmdNop => .h41 (packHost true 0x08 0)
  | .cmdRestartTx => .h41 (packHost true 0x08 1)
  | .cmdRestartRx => .h41 (packHost true 0x08 2)
  | .cmdRestartAll => .h41 (packHost true 0x08 3)
  | .cmdRsvd wdata => .h41 (packHost true 0x08 wdata)
  | .hostWrStatus wdata => .h41 (packHost true 0x0C wdata)
  | .hostWrDctAlpha wdata => .h41 (packHost true 0x10 wdata)
  | .hostWrTrcGainMu wdata => .h41 (packHost true 0x14 wdata)
  | .hostWrTrcGainOmega wdata => .h41 (packHost true 0x18 wdata)
  | .hostWrTrcOmegaMid wdata => .h41 (packHost true 0x1C wdata)
  | .hostWrTrcOmegaRlim wdata => .h41 (packHost true 0x20 wdata)
  | .hostWrTrcMuInit wdata => .h41 (packHost true 0x24 wdata)
  | .hostWrOther addr wdata => .h41 (packHost true addr wdata)
  | .reset => .rst

/-- The H41 rows of opcode_table.json, (mask, match), in the table's order. -/
def hostRows : List (HostWord × HostWord) :=
  [(0x10000000000, 0x00000000000),  -- HOST.RD
   (0x1FF00000000, 0x10400000000),  -- HOST.WR.CTRL
   (0x1FFFFFFFFFF, 0x10800000000),  -- CMD.NOP
   (0x1FFFFFFFFFF, 0x10800000001),  -- CMD.RESTART_TX
   (0x1FFFFFFFFFF, 0x10800000002),  -- CMD.RESTART_RX
   (0x1FFFFFFFFFF, 0x10800000003),  -- CMD.RESTART_ALL
   (0x1FF00000000, 0x10800000000),  -- CMD.RSVD
   (0x1FF00000000, 0x10C00000000),  -- HOST.WR.STATUS
   (0x1FF00000000, 0x11000000000),  -- HOST.WR.DCT_ALPHA
   (0x1FF00000000, 0x11400000000),  -- HOST.WR.TRC_GAIN_MU
   (0x1FF00000000, 0x11800000000),  -- HOST.WR.TRC_GAIN_OMEGA
   (0x1FF00000000, 0x11C00000000),  -- HOST.WR.TRC_OMEGA_MID
   (0x1FF00000000, 0x12000000000),  -- HOST.WR.TRC_OMEGA_RLIM
   (0x1FF00000000, 0x12400000000),  -- HOST.WR.TRC_MU_INIT
   (0x10000000000, 0x10000000000)]  -- HOST.WR.OTHER

/-- The (mask, match) row of a host operation; none for an operation that is no host operation. -/
def hostRowOf : Instr → Option (HostWord × HostWord)
  | .sprLoad _ => none
  | .sprEmit _ => none
  | .pshLoad _ _ => none
  | .pshEmit _ => none
  | .qdmStep _ _ => none
  | .dctStep _ => none
  | .trcShift _ => none
  | .trcEmit => none
  | .hostRd _ _ => some (0x10000000000, 0x00000000000)
  | .hostWrCtrl _ => some (0x1FF00000000, 0x10400000000)
  | .cmdNop => some (0x1FFFFFFFFFF, 0x10800000000)
  | .cmdRestartTx => some (0x1FFFFFFFFFF, 0x10800000001)
  | .cmdRestartRx => some (0x1FFFFFFFFFF, 0x10800000002)
  | .cmdRestartAll => some (0x1FFFFFFFFFF, 0x10800000003)
  | .cmdRsvd _ => some (0x1FF00000000, 0x10800000000)
  | .hostWrStatus _ => some (0x1FF00000000, 0x10C00000000)
  | .hostWrDctAlpha _ => some (0x1FF00000000, 0x11000000000)
  | .hostWrTrcGainMu _ => some (0x1FF00000000, 0x11400000000)
  | .hostWrTrcGainOmega _ => some (0x1FF00000000, 0x11800000000)
  | .hostWrTrcOmegaMid _ => some (0x1FF00000000, 0x11C00000000)
  | .hostWrTrcOmegaRlim _ => some (0x1FF00000000, 0x12000000000)
  | .hostWrTrcMuInit _ => some (0x1FF00000000, 0x12400000000)
  | .hostWrOther _ _ => some (0x10000000000, 0x10000000000)
  | .reset => none

/-- How many bits of a mask are 1 (R107: "the row whose mask has the most 1 bits applies"). -/
def maskOnes (m : HostWord) : Nat := ((List.range 41).filter m.getLsbD).length

/-- The width of a format in bits (R100). -/
def Format.width : Format → Nat
  | .s4 => 4
  | .c32 => 32
  | .x32 => 32
  | .a16 => 16
  | .b17 => 17
  | .d18 => 18
  | .h41 => 41
  | .sq6 => 6
  | .pq3 => 3
  | .tq9 => 9
  | .none => 0

/-- How many bytes hold a word of the format. -/
def Format.byteCount (f : Format) : Nat := (f.width + 7) / 8

/-- The word of the format whose number is `n mod 2^width`. -/
def keyOfNat (f : Format) (n : Nat) : Key :=
  match f with
  | .s4 => .s4 (BitVec.ofNat 4 n)
  | .c32 => .c32 (BitVec.ofNat 32 n)
  | .x32 => .x32 (BitVec.ofNat 32 n)
  | .a16 => .a16 (BitVec.ofNat 16 n)
  | .b17 => .b17 (BitVec.ofNat 17 n)
  | .d18 => .d18 (BitVec.ofNat 18 n)
  | .h41 => .h41 (BitVec.ofNat 41 n)
  | .sq6 => .sq6 (BitVec.ofNat 6 n)
  | .pq3 => .pq3 (BitVec.ofNat 3 n)
  | .tq9 => .tq9 (BitVec.ofNat 9 n)
  | .none => .rst

/-- A word as a number. -/
def Key.toNat : Key → Nat
  | .s4 w => w.toNat
  | .c32 w => w.toNat
  | .x32 w => w.toNat
  | .a16 w => w.toNat
  | .b17 w => w.toNat
  | .d18 w => w.toNat
  | .h41 w => w.toNat
  | .sq6 w => w.toNat
  | .pq3 w => w.toNat
  | .tq9 w => w.toNat
  | .rst => 0

/-- The number whose bytes are `bs`, the byte at the lowest address least significant (20_memory.md R71 item 1).
[log 11] -/
def leValue : List Byte → Nat
  | [] => 0
  | b :: bs => b.toNat + 256 * leValue bs

/-- The `n` low bytes of a number, the least significant at the lowest address. -/
def leBytes : Nat → Nat → List Byte
  | 0, _ => []
  | n + 1, v => BitVec.ofNat 8 v :: leBytes n (v / 256)

/-- The decoder on the bytes of a word of the given format. -/
def decodeBytes (f : Format) (bs : List Byte) : Except DecodeError Instr :=
  if bs.length ≠ f.byteCount then .error .badLength
  else if 2 ^ f.width ≤ leValue bs then .error .bitsAboveFormat
  else decode (keyOfNat f (leValue bs))

/-- The bytes of the word that selects `i`. -/
def encodeBytes (i : Instr) : List Byte :=
  leBytes (encode i).format.byteCount (encode i).toNat

/-- `w` is one of the four unit chips, the only C32 words that occur (R102). -/
def isUnitChip (w : Nat) : Bool :=
  w == 0x00004000 || w == 0x0000C000 || w == 0x40000000 || w == 0xC0000000

/-- The formats in which a word of `nbits` bits (its own width, or that in whole bytes) is read when nothing says
which unit it is for. Rows with fixed bits come first, as in R107; a C32 word is told from an X32 word by being one
of the four chips that occur. [log 7] -/
def tableFormats (nbits w : Nat) : List Format :=
  let order : List Format :=
    if isUnitChip w then [.none, .sq6, .pq3, .tq9, .s4, .a16, .b17, .c32, .x32, .h41]
    else [.none, .sq6, .pq3, .tq9, .s4, .a16, .b17, .x32, .h41]
  order.filter fun f => f.width == nbits || 8 * f.byteCount == nbits

/-- The operation the decoder reads from the word `w` of `nbits` bits, stored in bytes. -/
def decodeTableWord (nbits w : Nat) : Option Instr :=
  (tableFormats nbits w).findSome? fun f =>
    if w < 2 ^ (8 * f.byteCount) then (decodeBytes f (leBytes f.byteCount w)).toOption else none

end Sys2Proof
end

