-- ==== Sys2Proof/Config.lean ====
section
/-! DEFINITION. What the spec leaves free in every run. -/

namespace Sys2Proof

/-- The turn that comes next when the agenda says nothing: any agent whose step is enabled may be next (20_memory.md
R80 item 3) and the environment is any behaviour at the ports (93_implementation_defined.md U14). It has no body, so
nothing is known of it. [DESIGN CHOICE, log 1; safe] -/
opaque Config.freeTurn : Nat → Turn

end Sys2Proof
end

