-- ==== Sys2Proof/Machine/Tables.lean ====
section
/-! DEFINITION. The default tables and constants of the core: the ROM contents of 10_state.md R30 to R33, the ID
word, the constants of the arctangent and the reset values of the configuration registers (R27). -/

namespace Sys2Proof.Machine

/-- CHIP_ROM: word `s` holds the chips of symbol `s`, bit `k` being chip `k` (R30). -/
def chipTable : Vector (BitVec 32) 16 :=
  #v[0x744AC39B, 0x44AC39B7, 0x4AC39B74, 0xAC39B744,
     0xC39B744A, 0x39B744AC, 0x9B744AC3, 0xB744AC39,
     0xDEE06931, 0xEE06931D, 0xE06931DE, 0x06931DEE,
     0x6931DEE0, 0x931DEE06, 0x31DEE069, 0x1DEE0693]

/-- PSH_W: one half-sine in u1.14 (R31). -/
def weightTable : Vector Weight 4 := #v[0, 11585, 16384, 11585]

/-- ATAN_ROM: the arctangent of 2^-i in radians with 24 fraction bits (R32). -/
def atanTable : Vector FineAngle 16 :=
  #v[13176795, 7778716, 4110060, 2086331, 1047214, 524117, 262123, 131069,
     65536, 32768, 16384, 8192, 4096, 2048, 1024, 512]

/-- HALF_PI, a quarter turn with 24 fraction bits (R32). -/
def halfPi : Int := 26353589

/-- PI_Q, half a turn in ANG: the output limit of the arctangent (R32). -/
def piQ : Int := 25736

/-- A row of IROM from its eight entries as signed numbers. -/
def coefRow (a b c d e f g h : Int) : Vector Coef 8 :=
  #v[BitVec.ofInt 16 a, BitVec.ofInt 16 b, BitVec.ofInt 16 c, BitVec.ofInt 16 d,
     BitVec.ofInt 16 e, BitVec.ofInt 16 f, BitVec.ofInt 16 g, BitVec.ofInt 16 h]

/-- IROM: row `s` interpolates at the fraction `s / 32` between window entries 3 and 4 (R33). -/
def coefTable : Vector (Vector Coef 8) 33 :=
  #v[coefRow 0 0 0 16384 0 0 0 0,
     coefRow (-23) 123 (-419) 16354 455 (-133) 27 0,
     coefRow (-43) 235 (-800) 16265 945 (-275) 57 0,
     coefRow (-59) 335 (-1144) 16122 1467 (-426) 90 (-1),
     coefRow (-72) 423 (-1449) 15919 2021 (-584) 127 (-1),
     coefRow (-82) 500 (-1716) 15663 2603 (-748) 166 (-2),
     coefRow (-89) 565 (-1945) 15353 3212 (-916) 208 (-4),
     coefRow (-94) 617 (-2136) 14993 3844 (-1086) 252 (-6),
     coefRow (-95) 659 (-2291) 14584 4495 (-1257) 298 (-9),
     coefRow (-95) 689 (-2410) 14132 5164 (-1427) 344 (-13),
     coefRow (-93) 708 (-2496) 13640 5846 (-1594) 391 (-18),
     coefRow (-89) 718 (-2549) 13106 6538 (-1755) 438 (-23),
     coefRow (-84) 718 (-2571) 12539 7235 (-1908) 484 (-29),
     coefRow (-78) 710 (-2565) 11941 7934 (-2051) 528 (-35),
     coefRow (-71) 694 (-2532) 11316 8631 (-2182) 570 (-42),
     coefRow (-64) 671 (-2475) 10669 9322 (-2298) 608 (-49),
     coefRow (-57) 642 (-2396) 10003 10003 (-2396) 642 (-57),
     coefRow (-49) 608 (-2298) 9322 10669 (-2475) 671 (-64),
     coefRow (-42) 570 (-2182) 8631 11316 (-2532) 694 (-71),
     coefRow (-35) 528 (-2051) 7934 11941 (-2565) 710 (-78),
     coefRow (-29) 484 (-1908) 7235 12539 (-2571) 718 (-84),
     coefRow (-23) 438 (-1755) 6538 13106 (-2549) 718 (-89),
     coefRow (-18) 391 (-1594) 5846 13640 (-2496) 708 (-93),
     coefRow (-13) 344 (-1427) 5164 14132 (-2410) 689 (-95),
     coefRow (-9) 298 (-1257) 4495 14584 (-2291) 659 (-95),
     coefRow (-6) 252 (-1086) 3844 14993 (-2136) 617 (-94),
     coefRow (-4) 208 (-916) 3212 15353 (-1945) 565 (-89),
     coefRow (-2) 166 (-748) 2603 15663 (-1716) 500 (-82),
     coefRow (-1) 127 (-584) 2021 15919 (-1449) 423 (-72),
     coefRow (-1) 90 (-426) 1467 16122 (-1144) 335 (-59),
     coefRow 0 57 (-275) 945 16265 (-800) 235 (-43),
     coefRow 0 27 (-133) 455 16354 (-419) 123 (-23),
     coefRow 0 0 0 0 16384 0 0 0]

/-- The value of the ID register (R23). -/
def idValue : HostData := 0x4F515031

/-- Both run bits set (R24). -/
def ctrlDefault : BitVec 2 := 3

/-- DCT_ALPHA, 0.00016 in u0.24 (R27). -/
def dctAlphaDefault : Gain := 2684

/-- TRC_GAIN_MU, 0.03 in u0.24 (R27). -/
def trcGainMuDefault : Gain := 503316

/-- TRC_GAIN_OMEGA, 0.0002 in u0.24 (R27). -/
def trcGainOmegaDefault : Gain := 3355

/-- TRC_OMEGA_MID, 2 samples per decision in u7.24 (R27). -/
def trcOmegaMidDefault : Mid := 33554432

/-- TRC_OMEGA_RLIM, 0.5 in u0.24 (R27). -/
def trcOmegaRlimDefault : Gain := 8388608

/-- TRC_MU_INIT, 0.5 in u0.24 (R27). -/
def trcMuInitDefault : Gain := 8388608

/-- How many samples fill the window of TRC (R45). -/
def needAtStart : BitVec 9 := 8

/-- CH_DEPTH's default (00_scope.md R9). -/
def chDepthDefault : Nat := 2

end Sys2Proof.Machine
end

