-- ==== Sys2Proof/Machine/State.lean ====
section
/-! DEFINITION. The state of the core as plain data, with the environment's side of its ports, and its value
after reset (10_state.md). -/

namespace Sys2Proof.Machine

/-- Why the machine stops with a fault. There is no such reason: "All failures are local and non-fatal to the
running chain" (60_exceptions.md R320), and every event is a sticky flag of STATUS. [safe] -/
inductive Fault : Type
  deriving DecidableEq, Repr

/-- Why a step has no meaning. -/
inductive Refusal where
  /-- Raised by an arm of `exec` whose instruction has no meaning yet; no arm raises it. [safe] -/
  | notModelled (mnemonic : String)
  /-- Raised by `step` when the word that selects the agent's operation decodes to none. No fetched word is such a
  word: every agent's words select an operation (30_encoding.md R105, R107, R110). [safe] -/
  | undecodable (e : DecodeError)
  deriving DecidableEq, Repr

/-- The five events, each a sticky bit of STATUS (10_state.md R22, 60_exceptions.md R321). -/
inductive Event where
  | loopDiv | zeroMag | intSat | badCmd | badAddr
  deriving DecidableEq, Repr

/-- A decided symbol value, +1 or -1 (44_timing_recovery.md R206). [log 13] -/
inductive Sign where
  | plus | minus
  deriving DecidableEq, Repr

/-- A complex value (00_scope.md R17). -/
structure Cplx where
  re : Samp
  im : Samp
  deriving DecidableEq, Repr

/-- What is fixed when the core is built: the tables and the channel capacity (00_scope.md R9, 10_state.md R30 to
R33). No operation writes it. -/
structure Build where
  /-- CHIP_ROM (R30). -/
  chipRom : Vector (BitVec 32) 16
  /-- PSH_W (R31). -/
  pshW : Vector Weight 4
  /-- ATAN_ROM (R32). -/
  atanRom : Vector FineAngle 16
  /-- IROM (R33). -/
  irom : Vector (Vector Coef 8) 33
  /-- CH_DEPTH, the capacity of each internal channel (R50). -/
  chDepth : Nat
  deriving DecidableEq, Repr

/-- The build with the spec's tables and default capacity. [log 6] -/
def Build.default : Build :=
  { chipRom := chipTable, pshW := weightTable, atanRom := atanTable, irom := coefTable,
    chDepth := chDepthDefault }

/-- The registers of SPR (10_state.md R40). -/
structure Spr where
  busy : Bool
  sym : Sym
  k : BitVec 5
  deriving DecidableEq, Repr

/-- The registers of PSH (R41). -/
structure Psh where
  busy : Bool
  hold : Cplx
  p : BitVec 2
  deriving DecidableEq, Repr

/-- The registers of TRC (R45). -/
structure Trc where
  /-- The last 8 samples, `win[0]` the oldest. -/
  win : Vector Dcc 8
  need : BitVec 9
  mu : Gain
  omega : Period
  yPrev : Dcc
  dPrev : Sign
  err : Err
  deriving DecidableEq, Repr

/-- The state of the machine. -/
structure State where
  /-- The tables and the channel capacity (R30 to R33, R50). -/
  build : Build
  /-- CTRL[1:0]: TX_RUN is bit 0, RX_RUN bit 1 (R24). -/
  ctrl : BitVec 2
  /-- STATUS[4:0], the sticky flags (R22, R26). -/
  sticky : BitVec 5
  /-- DCT_ALPHA (R27). -/
  dctAlpha : Gain
  /-- TRC_GAIN_MU (R27). -/
  trcGainMu : Gain
  /-- TRC_GAIN_OMEGA (R27). -/
  trcGainOmega : Gain
  /-- TRC_OMEGA_MID (R27). -/
  trcOmegaMid : Mid
  /-- TRC_OMEGA_RLIM (R27). -/
  trcOmegaRlim : Gain
  /-- TRC_MU_INIT (R27). -/
  trcMuInit : Gain
  /-- The registers of SPR (R40). -/
  spr : Spr
  /-- The registers of PSH (R41). -/
  psh : Psh
  /-- QDM.prev (R42). -/
  qdmPrev : Cplx
  /-- DCT.est (R43). -/
  dctEst : Est
  /-- The registers of TRC (R45). -/
  trc : Trc
  /-- CH_CHIP, oldest token first (R50). -/
  chChip : List CplxWord
  /-- CH_DEM, oldest token first (R50). -/
  chDem : List Ang
  /-- CH_DCC, oldest token first (R50). -/
  chDcc : List Dcc
  /-- h_rdata, what the last host read returned (R51, 45_host_operations.md R241). [log 5] -/
  hRdata : HostData
  /-- The environment's: symbols offered at SYM_IN and not taken yet, oldest first (R50). [log 3] -/
  symIn : List Sym
  /-- The environment's: samples offered at RXS_IN and not taken yet, oldest first (R50). [log 3] -/
  rxsIn : List CplxWord
  /-- The environment's: the samples it has accepted at TXS_OUT, oldest first (R50, R112). [log 3] -/
  txsOut : List CplxWord
  /-- The environment's: the decisions it has accepted at DEC_OUT, oldest first (R50, R112). [log 3] -/
  decOut : List DecWord
  /-- The environment's: TXS_OUT can accept a token (R51). [log 4] -/
  txsReady : Bool
  /-- The environment's: DEC_OUT can accept a token (R51). [log 4] -/
  decReady : Bool
  /-- The model's own: the turns to come, next first (20_memory.md R80). [log 1] -/
  agenda : List Turn
  /-- The model's own: how many free turns have been drawn. [log 1] -/
  freeTurns : Nat
  deriving DecidableEq, Repr

/-- The machine right after hardware reset (10_state.md R60): every register at the value of that table, every
internal channel empty. The environment's fields, `hRdata` and the model's own fields are at the values the logs
name. -/
def State.reset : State :=
  { build := Build.default
    ctrl := ctrlDefault
    sticky := 0
    dctAlpha := dctAlphaDefault
    trcGainMu := trcGainMuDefault
    trcGainOmega := trcGainOmegaDefault
    trcOmegaMid := trcOmegaMidDefault
    trcOmegaRlim := trcOmegaRlimDefault
    trcMuInit := trcMuInitDefault
    spr := { busy := false, sym := 0, k := 0 }
    psh := { busy := false, hold := { re := 0, im := 0 }, p := 0 }
    qdmPrev := { re := 0, im := 0 }
    dctEst := 0
    trc :=
      { win := #v[0, 0, 0, 0, 0, 0, 0, 0], need := needAtStart, mu := trcMuInitDefault
        omega := trcOmegaMidDefault.setWidth 32, yPrev := 0, dPrev := .plus, err := 0 }
    chChip := []
    chDem := []
    chDcc := []
    hRdata := 0
    symIn := []
    rxsIn := []
    txsOut := []
    decOut := []
    txsReady := true
    decReady := true
    agenda := []
    freeTurns := 0 }

end Sys2Proof.Machine
end

