-- ==== Sys2Proof/Machine/Operands.lean ====
section
/-! DEFINITION. The arithmetic primitives of 00_scope.md R16 on exact integers, and how operands are taken from
tokens, tables and registers and packed into tokens (30_encoding.md R106). -/

namespace Sys2Proof.Machine

/-- `a >> n`, the flooring shift right (R16). -/
def shr (a : Int) (n : Nat) : Int := a >>> n

/-- `a << n` (R16). -/
def shl (a : Int) (n : Nat) : Int := a * ((2 ^ n : Nat) : Int)

/-- `clamp(v, lo, hi)` (R16). -/
def clamp (v lo hi : Int) : Int := max lo (min hi v)

/-- `sat_N(v)`, `v` limited to the N-bit signed range (R16). -/
def sat (n : Nat) (v : Int) : Int :=
  clamp v (-((2 ^ (n - 1) : Nat) : Int)) (((2 ^ (n - 1) : Nat) : Int) - 1)

/-- The parts of a complex token (R106). -/
def unpackCplx (w : CplxWord) : Cplx := { re := cplxRe w, im := cplxIm w }

/-- The token of a complex value (R102). -/
def tokenOf (c : Cplx) : CplxWord := packCplx c.im c.re

/-- The D18 token of a decision: soft in bits 16:0, hard in bit 17 (R103). -/
def packDecision (hard : Bool) (soft : Dcc) : DecWord := BitVec.ofBool hard ++ soft

/-- `hard` of a D18 token, bit 17 (30_encoding.md R106). -/
def decisionHard (w : DecWord) : Bool := w.getLsbD 17

/-- `soft` of a D18 token, bits 16:0 as a signed number (R106). -/
def decisionSoft (w : DecWord) : Int := (w.extractLsb' 0 17).toInt

/-- A decided symbol as a number (44_timing_recovery.md R209). -/
def signValue : Sign → Int
  | .plus => 1
  | .minus => -1

/-- The hard decision bit: 1 for +1, 0 for -1 (R209). -/
def hardBit : Sign → Bool
  | .plus => true
  | .minus => false

/-- CTRL.TX_RUN (10_state.md R24). -/
def txRun (s : State) : Bool := s.ctrl.getLsbD 0

/-- CTRL.RX_RUN (R24). -/
def rxRun (s : State) : Bool := s.ctrl.getLsbD 1

/-- CHIP_ROM[sym] (R30). -/
def chipWord (b : Build) (sym : Sym) : BitVec 32 :=
  b.chipRom[sym.toNat]'(by have := sym.isLt; omega)

/-- PSH_W[p] (R31). -/
def pshWeight (b : Build) (p : BitVec 2) : Weight :=
  b.pshW[p.toNat]'(by have := p.isLt; omega)

/-- The row of IROM nearest to a fraction: `s = (mu + 2^18) >> 19`, 0 to 32 (44_timing_recovery.md R208). -/
def fracIndex (mu : Gain) : Fin 33 :=
  ⟨(mu.toNat + 262144) / 524288, by have := mu.isLt; omega⟩

end Sys2Proof.Machine
end

