-- ==== Sys2Proof/Machine/Flags.lean ====
section
/-! DEFINITION. The flags of STATUS: the sticky event bits, their clearing, and the live busy bits (10_state.md R22,
R26). -/

namespace Sys2Proof.Machine

/-- The code of an event, the number of its STATUS bit (60_exceptions.md R321). -/
def eventCode : Event → Nat
  | .loopDiv => 0
  | .zeroMag => 1
  | .intSat => 2
  | .badCmd => 3
  | .badAddr => 4

/-- The sticky flags after an event: its bit is 1, the others are as they were (R322). -/
def setFlag (e : Event) (flags : BitVec 5) : BitVec 5 := flags ||| BitVec.twoPow 5 (eventCode e)

/-- The sticky flags after a step that raises the event only when `c` holds. -/
def setFlagIf (c : Bool) (e : Event) (flags : BitVec 5) : BitVec 5 :=
  if c then setFlag e flags else flags

/-- A host clear: every bit written as 1 is cleared (45_host_operations.md R246). -/
def clearFlags (mask flags : BitVec 5) : BitVec 5 := flags &&& ~~~mask

/-- STATUS bit 8, TX_BUSY, live (10_state.md R22). -/
def txBusy (s : State) : Bool := s.spr.busy || s.psh.busy || !s.chChip.isEmpty

/-- STATUS bit 9, RX_BUSY, live (R22). -/
def rxBusy (s : State) : Bool := !s.chDem.isEmpty || !s.chDcc.isEmpty || s.trc.need == 0

/-- The whole STATUS word: flags in bits 4:0, busy bits in 9:8, every other bit 0 (R26). -/
def statusWord (s : State) : HostData :=
  s.sticky.setWidth 32 ||| ((BitVec.ofBool (txBusy s)).setWidth 32 <<< 8) |||
    ((BitVec.ofBool (rxBusy s)).setWidth 32 <<< 9)

end Sys2Proof.Machine
end

