-- ==== Sys2Proof/Machine/Ops.lean ====
section
/-! DEFINITION. The operations the meanings share: channels, events, the host register space, the two stream
restarts and the configuration defaults. -/

namespace Sys2Proof.Machine

/-- `full(CH)`: the channel holds as many tokens as it can (00_scope.md R16, 10_state.md R50). -/
def full {α : Type} (s : State) (ch : List α) : Bool := decide (s.build.chDepth ≤ ch.length)

/-- `push(CH, v)`: the token becomes the youngest (R16). -/
def push {α : Type} (ch : List α) (v : α) : List α := ch ++ [v]

/-- `pop(CH)`: what is left when the oldest token is taken (R16). -/
def pop {α : Type} (ch : List α) : List α := ch.tail

/-- Recording an event. It sets the event's sticky bit and does nothing else: there is no handler, no saved state
and no transfer of control, and so no return (60_exceptions.md R320, R322, R331, R333). -/
def raise (e : Event) (s : State) : State := { s with sticky := setFlag e s.sticky }

/-- The word a host read of `addr` returns, and none where the address is not mapped (45_host_operations.md R241,
10_state.md R23 to R29). -/
def hostReg (addr : HostAddr) (s : State) : Option HostData :=
  if addr = 0x00 then some idValue
  else if addr = 0x04 then some (s.ctrl.setWidth 32)
  else if addr = 0x08 then some 0
  else if addr = 0x0C then some (statusWord s)
  else if addr = 0x10 then some (s.dctAlpha.setWidth 32)
  else if addr = 0x14 then some (s.trcGainMu.setWidth 32)
  else if addr = 0x18 then some (s.trcGainOmega.setWidth 32)
  else if addr = 0x1C then some (s.trcOmegaMid.setWidth 32)
  else if addr = 0x20 then some (s.trcOmegaRlim.setWidth 32)
  else if addr = 0x24 then some (s.trcMuInit.setWidth 32)
  else if addr = 0x28 then some s.trc.omega
  else if addr = 0x2C then some (s.trc.mu.setWidth 32)
  else if addr = 0x30 then some (s.dctEst.extractLsb' 8 32)
  else if addr = 0x34 then some (s.trc.err.signExtend 32)
  else if addr.extractLsb' 6 2 = 1 ∧ addr.extractLsb' 0 2 = 0 then
    some (chipWord s.build (addr.extractLsb' 2 4))
  else none

/-- The transmit half as at the start of a stream (45_host_operations.md R255). -/
def restartTx (s : State) : State :=
  { s with
    spr := { busy := false, sym := 0, k := 0 }
    psh := { busy := false, hold := { re := 0, im := 0 }, p := 0 }
    chChip := [] }

/-- The registers of TRC at the start of a stream, under the present configuration (10_state.md R45). -/
def trcAtStart (s : State) : Trc :=
  { win := #v[0, 0, 0, 0, 0, 0, 0, 0]
    need := needAtStart
    mu := s.trcMuInit
    omega := s.trcOmegaMid.setWidth 32
    yPrev := 0
    dPrev := .plus
    err := 0 }

/-- The receive half as at the start of a stream (45_host_operations.md R256). -/
def restartRx (s : State) : State :=
  { s with
    qdmPrev := { re := 0, im := 0 }
    dctEst := 0
    trc := trcAtStart s
    chDem := []
    chDcc := [] }

/-- CTRL, the sticky flags and the configuration registers at their reset values (70_reset_and_hazards.md R350). -/
def configDefaults (s : State) : State :=
  { s with
    ctrl := ctrlDefault
    sticky := 0
    dctAlpha := dctAlphaDefault
    trcGainMu := trcGainMuDefault
    trcGainOmega := trcGainOmegaDefault
    trcOmegaMid := trcOmegaMidDefault
    trcOmegaRlim := trcOmegaRlimDefault
    trcMuInit := trcMuInitDefault }

end Sys2Proof.Machine
end

