-- ==== Sys2Proof/Machine/Commands.lean ====
section
/-! DEFINITION. The commands written to CMD (45_host_operations.md section 4) and the hardware reset
(70_reset_and_hazards.md R350). -/

namespace Sys2Proof.Machine

/-- CMD.NOP (R254). -/
def execCmdNop (s : State) : Host.Outcome State Fault Refusal := .next s

/-- CMD.RESTART_TX (R255). -/
def execCmdRestartTx (s : State) : Host.Outcome State Fault Refusal := .next (restartTx s)

/-- CMD.RESTART_RX (R256). -/
def execCmdRestartRx (s : State) : Host.Outcome State Fault Refusal := .next (restartRx s)

/-- CMD.RESTART_ALL: both restarts in one step (R257). -/
def execCmdRestartAll (s : State) : Host.Outcome State Fault Refusal :=
  .next (restartRx (restartTx s))

/-- CMD.RSVD: no command is performed, BADCMD is set (R259). -/
def execCmdRsvd (_wdata : HostData) (s : State) : Host.Outcome State Fault Refusal :=
  .next (raise .badCmd s)

/-- RESET: the configuration defaults first, then both stream restarts (R350). The environment's tokens and the
tables are not the reset's to change. -/
def execReset (s : State) : Host.Outcome State Fault Refusal :=
  .next (restartRx (restartTx (configDefaults s)))

end Sys2Proof.Machine
end

