-- ==== Sys2Proof/Machine/DcTracker.lean ====
section
/-! DEFINITION. DCT, the DC tracker (43_dc_tracker.md). -/

namespace Sys2Proof.Machine

/-- `est_new`: the estimate moved by alpha times its distance from the input, the product floored (R192). -/
def trackedEstimate (alpha : Gain) (est : Est) (x : Ang) : Int :=
  est.toInt + shr ((alpha.toNat : Int) * (shl x.toInt 24 - est.toInt)) 24

/-- `out`: the input less the updated estimate (R192). -/
def dcCorrected (alpha : Gain) (est : Est) (x : Ang) : Int :=
  x.toInt - shr (trackedEstimate alpha est x) 24

/-- When DCT.STEP on the token is enabled (R192). -/
abbrev DctStepEnabled (ang : Ang) (s : State) : Prop :=
  s.chDem.head? = some ang ∧ full s s.chDcc = false

/-- DCT.STEP (R192). Where it is not enabled the unit waits. -/
def execDctStep (ang : Ang) (s : State) : Host.Outcome State Fault Refusal :=
  if DctStepEnabled ang s then
    .next { s with
      chDem := pop s.chDem
      dctEst := BitVec.ofInt 40 (trackedEstimate s.dctAlpha s.dctEst ang)
      chDcc := push s.chDcc (BitVec.ofInt 17 (dcCorrected s.dctAlpha s.dctEst ang)) }
  else .next s

end Sys2Proof.Machine
end

