-- ==== Sys2Proof/Machine/Demod.lean ====
section
/-! DEFINITION. QDM, the quadrature demodulator (42_quadrature_demod.md). -/

namespace Sys2Proof.Machine

/-- The real part of `x * conj(prev)`, exact (R171). -/
def conjRe (x prev : Cplx) : Int :=
  x.re.toInt * prev.re.toInt + x.im.toInt * prev.im.toInt

/-- The imaginary part of `x * conj(prev)`, exact (R171). -/
def conjIm (x prev : Cplx) : Int :=
  x.im.toInt * prev.re.toInt - x.re.toInt * prev.im.toInt

/-- Step 1 of `Atan2Q`: the left half-plane folded onto the right by a quarter turn, as (X, Y, Z) (R173). -/
def foldHalfPlane (y0 x0 : Int) : Int × Int × Int :=
  if x0 < 0 then
    if 0 ≤ y0 then (y0, -x0, halfPi) else (-y0, x0, -halfPi)
  else (x0, y0, 0)

/-- Micro-rotation `i` of step 3, with its table angle (R173). -/
def microRotate (angle : FineAngle) (i : Nat) (v : Int × Int × Int) : Int × Int × Int :=
  if 0 ≤ v.2.1 then
    (v.1 + shr v.2.1 i, v.2.1 - shr v.1 i, v.2.2 + (angle.toNat : Int))
  else
    (v.1 - shr v.2.1 i, v.2.1 + shr v.1 i, v.2.2 - (angle.toNat : Int))

/-- The micro-rotations with the given angles, the first being number `i` (R173). -/
def rotateAll : List FineAngle → Nat → Int × Int × Int → Int × Int × Int
  | [], _, v => v
  | a :: as, i, v => rotateAll as (i + 1) (microRotate a i v)

/-- The final Z of the arctangent, after the 15 guard bits and the 16 micro-rotations (R173 steps 1 to 3). -/
def cordicAngle (b : Build) (y0 x0 : Int) : Int :=
  let v := foldHalfPlane y0 x0
  (rotateAll b.atanRom.toList 0 (shl v.1 15, shl v.2.1 15, v.2.2)).2.2

/-- `Atan2Q(Y0, X0)` in ANG: the angle rounded to 13 fraction bits and limited to half a turn (R173). -/
def atan2Q (b : Build) (y0 x0 : Int) : Int :=
  clamp (shr (cordicAngle b y0 x0 + 1024) 11) (-piQ) piQ

/-- The conjugate product is exactly zero (R172). -/
def productZero (x prev : Cplx) : Bool := conjRe x prev == 0 && conjIm x prev == 0

/-- What QDM outputs for a sample and the one before it (R172). -/
def demodulate (b : Build) (x prev : Cplx) : Ang :=
  if productZero x prev then 0 else BitVec.ofInt 16 (atan2Q b (conjIm x prev) (conjRe x prev))

/-- When QDM.STEP on the token with these parts is enabled (R172). -/
abbrev QdmStepEnabled (im re : Samp) (s : State) : Prop :=
  rxRun s = true ∧ s.rxsIn.head? = some (packCplx im re) ∧ full s s.chDem = false

/-- QDM.STEP (R172). Where it is not enabled the unit waits. -/
def execQdmStep (im re : Samp) (s : State) : Host.Outcome State Fault Refusal :=
  if QdmStepEnabled im re s then
    .next { s with
      rxsIn := pop s.rxsIn
      sticky := setFlagIf (productZero { re := re, im := im } s.qdmPrev) .zeroMag s.sticky
      chDem := push s.chDem (demodulate s.build { re := re, im := im } s.qdmPrev)
      qdmPrev := { re := re, im := im } }
  else .next s

end Sys2Proof.Machine
end

