-- ==== Sys2Proof/Machine/HostPort.lean ====
section
/-! DEFINITION. The host's reads and register writes (45_host_operations.md sections 1 to 3). A write keeps the
register's field of the data and drops the bits above it (30_encoding.md R106). -/

namespace Sys2Proof.Machine

/-- HOST.RD: the register's value, or 0 and BADADDR where the address is not mapped (R241). -/
def execHostRd (addr : HostAddr) (_wdata : HostData) (s : State) : Host.Outcome State Fault Refusal :=
  match hostReg addr s with
  | some v => .next { s with hRdata := v }
  | none => .next (raise .badAddr { s with hRdata := 0 })

/-- HOST.WR.CTRL (R243). -/
def execHostWrCtrl (wdata : HostData) (s : State) : Host.Outcome State Fault Refusal :=
  .next { s with ctrl := wdata.setWidth 2 }

/-- HOST.WR.STATUS: clear the flags written as 1 (R246). -/
def execHostWrStatus (wdata : HostData) (s : State) : Host.Outcome State Fault Refusal :=
  .next { s with sticky := clearFlags (wdata.setWidth 5) s.sticky }

/-- HOST.WR.DCT_ALPHA (R247). -/
def execHostWrDctAlpha (wdata : HostData) (s : State) : Host.Outcome State Fault Refusal :=
  .next { s with dctAlpha := wdata.setWidth 24 }

/-- HOST.WR.TRC_GAIN_MU (R248). -/
def execHostWrTrcGainMu (wdata : HostData) (s : State) : Host.Outcome State Fault Refusal :=
  .next { s with trcGainMu := wdata.setWidth 24 }

/-- HOST.WR.TRC_GAIN_OMEGA (R249). -/
def execHostWrTrcGainOmega (wdata : HostData) (s : State) : Host.Outcome State Fault Refusal :=
  .next { s with trcGainOmega := wdata.setWidth 24 }

/-- HOST.WR.TRC_OMEGA_MID; TRC.omega is not touched (R250). -/
def execHostWrTrcOmegaMid (wdata : HostData) (s : State) : Host.Outcome State Fault Refusal :=
  .next { s with trcOmegaMid := wdata.setWidth 31 }

/-- HOST.WR.TRC_OMEGA_RLIM (R251). -/
def execHostWrTrcOmegaRlim (wdata : HostData) (s : State) : Host.Outcome State Fault Refusal :=
  .next { s with trcOmegaRlim := wdata.setWidth 24 }

/-- HOST.WR.TRC_MU_INIT; TRC.mu is not touched (R252). -/
def execHostWrTrcMuInit (wdata : HostData) (s : State) : Host.Outcome State Fault Refusal :=
  .next { s with trcMuInit := wdata.setWidth 24 }

/-- HOST.WR.OTHER: nothing is stored, BADADDR is set (R253). -/
def execHostWrOther (_addr : HostAddr) (_wdata : HostData) (s : State) :
    Host.Outcome State Fault Refusal :=
  .next (raise .badAddr s)

end Sys2Proof.Machine
end

