-- ==== Sys2Proof/Machine/Shaper.lean ====
section
/-! DEFINITION. PSH, the pulse shaper (41_pulse_shaper.md). -/

namespace Sys2Proof.Machine

/-- One part of `Shape`: the product in s1.14 rounded to nearest, a tie upward (R151). -/
def shapePart (x : Samp) (w : Weight) : Samp :=
  BitVec.ofInt 16 (shr (x.toInt * (w.toNat : Int) + 8192) 14)

/-- `Shape(c, p)` (R151). -/
def shape (b : Build) (c : Cplx) (p : BitVec 2) : Cplx :=
  { re := shapePart c.re (pshWeight b p), im := shapePart c.im (pshWeight b p) }

/-- When PSH.LOAD of the token with these parts is enabled (R152). -/
abbrev PshLoadEnabled (im re : Samp) (s : State) : Prop :=
  s.psh.busy = false ∧ s.chChip.head? = some (packCplx im re)

/-- When PSH.EMIT of sample `p` is enabled (R153). -/
abbrev PshEmitEnabled (p : BitVec 2) (s : State) : Prop :=
  s.psh.busy = true ∧ s.psh.p = p ∧ s.txsReady = true

/-- PSH.LOAD (R152). Where it is not enabled the unit waits. -/
def execPshLoad (im re : Samp) (s : State) : Host.Outcome State Fault Refusal :=
  if PshLoadEnabled im re s then
    .next { s with
      psh := { busy := true, hold := { re := re, im := im }, p := 0 }
      chChip := pop s.chChip }
  else .next s

/-- PSH.EMIT (R153). Where it is not enabled the unit waits. -/
def execPshEmit (p : BitVec 2) (s : State) : Host.Outcome State Fault Refusal :=
  if PshEmitEnabled p s then
    .next { s with
      txsOut := push s.txsOut (tokenOf (shape s.build s.psh.hold p))
      psh :=
        if p = 3 then { s.psh with p := 0, busy := false } else { s.psh with p := p + 1 } }
  else .next s

end Sys2Proof.Machine
end

