-- ==== Sys2Proof/Machine/Spreader.lean ====
section
/-! DEFINITION. SPR, the chip spreader (40_chip_spreader.md). -/

namespace Sys2Proof.Machine

/-- `Chip(s, k)`: even chips on the real axis, odd chips on the imaginary axis, bit 1 for +1 (R131). -/
def chip (b : Build) (sym : Sym) (k : BitVec 5) : Cplx :=
  let a : Samp := if (chipWord b sym).getLsbD k.toNat then 16384 else -16384
  if k.toNat % 2 = 0 then { re := a, im := 0 } else { re := 0, im := a }

/-- When SPR.LOAD of the token `sym` is enabled (R132). -/
abbrev SprLoadEnabled (sym : Sym) (s : State) : Prop :=
  s.spr.busy = false ∧ txRun s = true ∧ s.symIn.head? = some sym

/-- When SPR.EMIT of chip `k` is enabled (R133). -/
abbrev SprEmitEnabled (k : BitVec 5) (s : State) : Prop :=
  s.spr.busy = true ∧ s.spr.k = k ∧ full s s.chChip = false

/-- SPR.LOAD (R132). Where it is not enabled the unit waits. -/
def execSprLoad (sym : Sym) (s : State) : Host.Outcome State Fault Refusal :=
  if SprLoadEnabled sym s then
    .next { s with spr := { busy := true, sym := sym, k := 0 }, symIn := pop s.symIn }
  else .next s

/-- SPR.EMIT (R133). Where it is not enabled the unit waits. -/
def execSprEmit (k : BitVec 5) (s : State) : Host.Outcome State Fault Refusal :=
  if SprEmitEnabled k s then
    .next { s with
      chChip := push s.chChip (tokenOf (chip s.build s.spr.sym k))
      spr :=
        if k = 31 then { s.spr with k := 0, busy := false } else { s.spr with k := k + 1 } }
  else .next s

end Sys2Proof.Machine
end

