-- ==== Sys2Proof/Machine/Timing.lean ====
section
/-! DEFINITION. TRC, the Mueller and Muller timing-recovery loop (44_timing_recovery.md). -/

namespace Sys2Proof.Machine

/-- The window after one more sample: the oldest leaves, the new one is `win[7]` (R211). -/
def shiftWindow (win : Vector Dcc 8) (x : Dcc) : Vector Dcc 8 :=
  #v[win[1], win[2], win[3], win[4], win[5], win[6], win[7], x]

/-- The sum of the eight products of a window and a row of IROM (R208). -/
def tapSum (win : Vector Dcc 8) (row : Vector Coef 8) : Int :=
  win[0].toInt * row[0].toInt + win[1].toInt * row[1].toInt + win[2].toInt * row[2].toInt +
    win[3].toInt * row[3].toInt + win[4].toInt * row[4].toInt + win[5].toInt * row[5].toInt +
    win[6].toInt * row[6].toInt + win[7].toInt * row[7].toInt

/-- `y0`: the interpolated value, rounded and not yet limited (R208). -/
def interpRaw (b : Build) (win : Vector Dcc 8) (mu : Gain) : Int :=
  shr (tapSum win b.irom[fracIndex mu] + 8192) 14

/-- `y`: the interpolated value limited to 17 bits (R208). -/
def interp (b : Build) (win : Vector Dcc 8) (mu : Gain) : Int := sat 17 (interpRaw b win mu)

/-- The slicer; zero decides +1 (R209). -/
def slice (y : Int) : Sign := if y < 0 then .minus else .plus

/-- `e`: the Mueller and Muller error term (R210). -/
def timingError (dPrev : Sign) (y : Int) (d : Sign) (yPrev : Dcc) : Int :=
  signValue dPrev * y - signValue d * yPrev.toInt

/-- A loop correction: a gain times the error, floored to 24 fraction bits (R212 `go` and `gm`). -/
def correction (gain : Gain) (e : Int) : Int := shr ((gain.toNat : Int) * e) 13

/-- `lim`: how far the period may be from its nominal value (R212). -/
def periodLimit (mid : Mid) (rlim : Gain) : Int := shr ((mid.toNat : Int) * (rlim.toNat : Int)) 24

/-- `om2`: the period limited to the configured range (R212). -/
def boundedPeriod (mid : Mid) (rlim : Gain) (om1 : Int) : Int :=
  let lo := (mid.toNat : Int) - periodLimit mid rlim
  let hi := (mid.toNat : Int) + periodLimit mid rlim
  if om1 < lo then lo else if hi < om1 then hi else om1

/-- `y` of TRC.EMIT in a state. -/
def emitY (s : State) : Int := interp s.build s.trc.win s.trc.mu

/-- INTSAT's condition: the limit changed the interpolated value (R208). -/
def emitSaturates (s : State) : Bool := emitY s != interpRaw s.build s.trc.win s.trc.mu

/-- `e` of TRC.EMIT in a state. -/
def emitError (s : State) : Int :=
  timingError s.trc.dPrev (emitY s) (slice (emitY s)) s.trc.yPrev

/-- `om1` of TRC.EMIT in a state: the period before its bound. -/
def emitPeriodRaw (s : State) : Int :=
  (s.trc.omega.toNat : Int) + correction s.trcGainOmega (emitError s)

/-- `om2` of TRC.EMIT in a state: the bounded period. -/
def emitPeriod (s : State) : Int :=
  boundedPeriod s.trcOmegaMid s.trcOmegaRlim (emitPeriodRaw s)

/-- `t` of TRC.EMIT in a state before it is kept from going backward. -/
def emitPositionRaw (s : State) : Int :=
  (s.trc.mu.toNat : Int) + emitPeriod s + correction s.trcGainMu (emitError s)

/-- `t` of TRC.EMIT in a state: the next position, never before the present one. -/
def emitPosition (s : State) : Int :=
  if emitPositionRaw s < 0 then 0 else emitPositionRaw s

/-- LOOPDIV's condition: the period or the position was limited (R212, 60_exceptions.md R325). -/
def emitDiverges (s : State) : Bool :=
  emitPeriod s != emitPeriodRaw s || decide (emitPositionRaw s < 0)

/-- When TRC.SHIFT of the token is enabled (R211). -/
abbrev TrcShiftEnabled (dcc : Dcc) (s : State) : Prop :=
  s.trc.need ≠ 0 ∧ s.chDcc.head? = some dcc

/-- When TRC.EMIT is enabled (R212). -/
abbrev TrcEmitEnabled (s : State) : Prop := s.trc.need = 0 ∧ s.decReady = true

/-- TRC.SHIFT (R211). Where it is not enabled the unit waits. -/
def execTrcShift (dcc : Dcc) (s : State) : Host.Outcome State Fault Refusal :=
  if TrcShiftEnabled dcc s then
    .next { s with
      chDcc := pop s.chDcc
      trc := { s.trc with win := shiftWindow s.trc.win dcc, need := s.trc.need - 1 } }
  else .next s

/-- TRC.EMIT (R212). Where it is not enabled the unit waits. -/
def execTrcEmit (s : State) : Host.Outcome State Fault Refusal :=
  if TrcEmitEnabled s then
    .next { s with
      sticky :=
        setFlagIf (emitDiverges s) .loopDiv (setFlagIf (emitSaturates s) .intSat s.sticky)
      trc :=
        { win := s.trc.win
          need := BitVec.ofInt 9 (shr (emitPosition s) 24)
          mu := BitVec.ofInt 24 (emitPosition s)
          omega := BitVec.ofInt 32 (emitPeriod s)
          yPrev := BitVec.ofInt 17 (emitY s)
          dPrev := slice (emitY s)
          err := BitVec.ofInt 18 (emitError s) }
      decOut :=
        push s.decOut
          (packDecision (hardBit (slice (emitY s))) (BitVec.ofInt 17 (emitY s))) }
  else .next s

end Sys2Proof.Machine
end

