-- ==== Sys2Proof/Machine/Dispatch.lean ====
section
/-! DEFINITION. The meaning of every operation, one arm each. -/

namespace Sys2Proof.Machine

/-- What an operation does. -/
def exec (i : Instr) (s : State) : Host.Outcome State Fault Refusal :=
  match i with
  | .sprLoad sym => Sys2Proof.Machine.execSprLoad sym s
  | .sprEmit k => Sys2Proof.Machine.execSprEmit k s
  | .pshLoad im re => Sys2Proof.Machine.execPshLoad im re s
  | .pshEmit p => Sys2Proof.Machine.execPshEmit p s
  | .qdmStep im re => Sys2Proof.Machine.execQdmStep im re s
  | .dctStep ang => Sys2Proof.Machine.execDctStep ang s
  | .trcShift dcc => Sys2Proof.Machine.execTrcShift dcc s
  | .trcEmit => Sys2Proof.Machine.execTrcEmit s
  | .hostRd addr wdata => Sys2Proof.Machine.execHostRd addr wdata s
  | .hostWrCtrl wdata => Sys2Proof.Machine.execHostWrCtrl wdata s
  | .cmdNop => Sys2Proof.Machine.execCmdNop s
  | .cmdRestartTx => Sys2Proof.Machine.execCmdRestartTx s
  | .cmdRestartRx => Sys2Proof.Machine.execCmdRestartRx s
  | .cmdRestartAll => Sys2Proof.Machine.execCmdRestartAll s
  | .cmdRsvd wdata => Sys2Proof.Machine.execCmdRsvd wdata s
  | .hostWrStatus wdata => Sys2Proof.Machine.execHostWrStatus wdata s
  | .hostWrDctAlpha wdata => Sys2Proof.Machine.execHostWrDctAlpha wdata s
  | .hostWrTrcGainMu wdata => Sys2Proof.Machine.execHostWrTrcGainMu wdata s
  | .hostWrTrcGainOmega wdata => Sys2Proof.Machine.execHostWrTrcGainOmega wdata s
  | .hostWrTrcOmegaMid wdata => Sys2Proof.Machine.execHostWrTrcOmegaMid wdata s
  | .hostWrTrcOmegaRlim wdata => Sys2Proof.Machine.execHostWrTrcOmegaRlim wdata s
  | .hostWrTrcMuInit wdata => Sys2Proof.Machine.execHostWrTrcMuInit wdata s
  | .hostWrOther addr wdata => Sys2Proof.Machine.execHostWrOther addr wdata s
  | .reset => Sys2Proof.Machine.execReset s

end Sys2Proof.Machine
end

