-- ==== Sys2Proof/Machine/Fetch.lean ====
section
/-! DEFINITION. How the next turn is drawn, which word selects an agent's operation, what the environment does at
the ports, and where a word is placed so that the next step runs it (20_memory.md R80, 30_encoding.md R105, R107). -/

namespace Sys2Proof.Machine

/-- The next turn, and the state with that turn used up: the head of the agenda, or a free turn where the agenda is
empty (R80 item 3). [log 1] -/
def takeTurn (s : State) : Turn × State :=
  match s.agenda with
  | t :: rest => (t, { s with agenda := rest })
  | [] => (Config.freeTurn s.freeTurns, { s with freeTurns := s.freeTurns + 1 })

/-- The SQ6 word (R105). -/
def sprWord (s : State) : BitVec 6 := BitVec.ofBool s.spr.busy ++ s.spr.k

/-- The PQ3 word (R105). -/
def pshWord (s : State) : BitVec 3 := BitVec.ofBool s.psh.busy ++ s.psh.p

/-- The TQ9 word (R105). -/
def trcWord (s : State) : BitVec 9 := s.trc.need

/-- The word that selects a unit's next operation: its sequencing word where that selects an operation without a
token, else the oldest token of its input; none where there is no such token (R105, R107). -/
def unitKey (u : Unit5) (s : State) : Option Key :=
  match u with
  | .spr => if s.spr.busy then some (.sq6 (sprWord s)) else s.symIn.head?.map .s4
  | .psh => if s.psh.busy then some (.pq3 (pshWord s)) else s.chChip.head?.map .c32
  | .qdm => s.rxsIn.head?.map .x32
  | .dct => s.chDem.head?.map .a16
  | .trc => if s.trc.need = 0 then some (.tq9 (trcWord s)) else s.chDcc.head?.map .b17

/-- The word that selects the operation of a turn; none for a turn of the environment and for a unit that lacks its
token. -/
def fetch (t : Turn) (s : State) : Option Key :=
  match t with
  | .unit u => unitKey u s
  | .host w => some (.h41 w)
  | .rst => some .rst
  | .offerSym _ => none
  | .offerRxs _ => none
  | .txsReady _ => none
  | .decReady _ => none

/-- What a turn does to the environment's side of the ports (10_state.md R50, 30_encoding.md R112). -/
def environment (t : Turn) (s : State) : State :=
  match t with
  | .unit _ => s
  | .host _ => s
  | .rst => s
  | .offerSym x => { s with symIn := push s.symIn x }
  | .offerRxs x => { s with rxsIn := push s.rxsIn x }
  | .txsReady b => { s with txsReady := b }
  | .decReady b => { s with decReady := b }

/-- `s` with an operation placed where the next step fetches it: the turn is its agent's, and the agent's sequencing
state, run bit and input token are those that select it. [log 10] -/
def place (i : Instr) (s : State) : State :=
  match i with
  | .sprLoad sym =>
    { s with
      agenda := .unit .spr :: s.agenda, symIn := sym :: s.symIn, ctrl := s.ctrl ||| 1
      spr := { s.spr with busy := false } }
  | .sprEmit k =>
    { s with agenda := .unit .spr :: s.agenda, spr := { s.spr with busy := true, k := k } }
  | .pshLoad im re =>
    { s with
      agenda := .unit .psh :: s.agenda, chChip := packCplx im re :: s.chChip
      psh := { s.psh with busy := false } }
  | .pshEmit p =>
    { s with agenda := .unit .psh :: s.agenda, psh := { s.psh with busy := true, p := p } }
  | .qdmStep im re =>
    { s with
      agenda := .unit .qdm :: s.agenda, rxsIn := packCplx im re :: s.rxsIn
      ctrl := s.ctrl ||| 2 }
  | .dctStep ang => { s with agenda := .unit .dct :: s.agenda, chDem := ang :: s.chDem }
  | .trcShift dcc =>
    { s with
      agenda := .unit .trc :: s.agenda, chDcc := dcc :: s.chDcc
      trc := { s.trc with need := if s.trc.need = 0 then needAtStart else s.trc.need } }
  | .trcEmit => { s with agenda := .unit .trc :: s.agenda, trc := { s.trc with need := 0 } }
  | .reset => { s with agenda := .rst :: s.agenda }
  | .hostRd _ _ => placeHost i s
  | .hostWrCtrl _ => placeHost i s
  | .cmdNop => placeHost i s
  | .cmdRestartTx => placeHost i s
  | .cmdRestartRx => placeHost i s
  | .cmdRestartAll => placeHost i s
  | .cmdRsvd _ => placeHost i s
  | .hostWrStatus _ => placeHost i s
  | .hostWrDctAlpha _ => placeHost i s
  | .hostWrTrcGainMu _ => placeHost i s
  | .hostWrTrcGainOmega _ => placeHost i s
  | .hostWrTrcOmegaMid _ => placeHost i s
  | .hostWrTrcOmegaRlim _ => placeHost i s
  | .hostWrTrcMuInit _ => placeHost i s
  | .hostWrOther _ _ => placeHost i s
where
  /-- The next turn is the host's, with the transaction that selects `i`. -/
  placeHost (i : Instr) (s : State) : State :=
    match encode i with
    | .h41 w => { s with agenda := .host w :: s.agenda }
    | _ => s

end Sys2Proof.Machine
end

