-- ==== Sys2Proof/Machine/Step.lean ====
section
/-! DEFINITION. One step of the machine: the next turn is taken, the word that selects the agent's operation is
decoded, and the operation runs. A turn of the environment acts at the ports; a unit without its token waits. -/

namespace Sys2Proof.Machine

/-- The step of a turn already taken. -/
def stepTurn (t : Turn) (s : State) : Host.Outcome State Fault Refusal :=
  match fetch t s with
  | none => .next (environment t s)
  | some key =>
    match decode key with
    | .ok i => exec i s
    | .error e => .refused (.undecodable e)

/-- One step of the machine. -/
def step (s : State) : Host.Outcome State Fault Refusal :=
  stepTurn (takeTurn s).1 (takeTurn s).2

/-- `s` with the operation that the word selects placed where the next step fetches it. -/
def State.withFetchWord (s : State) (nbits w : Nat) : State :=
  match decodeTableWord nbits w with
  | some i => place i s
  | none => s

end Sys2Proof.Machine
end

