-- ==== Sys2Proof/Machine/Stimulus.lean ====
section
/-! DEFINITION. The stimulus notation of 30_encoding.md R112 and R113 as turns of the agenda. A line `RUN` is no list
of turns: it is every run of unit turns to quiescence, for which see Safety.lean. -/

namespace Sys2Proof.Machine

/-- `RESET`. -/
def lineReset : List Turn := [.rst]

/-- `WR <reg>, <value>`. -/
def lineWr (addr : HostAddr) (value : HostData) : List Turn := [.host (packHost true addr value)]

/-- `RD <reg>`. -/
def lineRd (addr : HostAddr) : List Turn := [.host (packHost false addr 0)]

/-- `SYM <n>, <n>, ...`. -/
def lineSym (ts : List Sym) : List Turn := ts.map .offerSym

/-- `RXS (<re>, <im>), ...`. -/
def lineRxs (xs : List Cplx) : List Turn := xs.map fun x => .offerRxs (tokenOf x)

/-- `STEP <operation>` of a unit. -/
def lineStep (u : Unit5) : List Turn := [.unit u]

/-- `CMD NOP`, `CMD RESTART_TX`, `CMD RESTART_RX`, `CMD RESTART_ALL`: `WR CMD` with the codes 0 to 3 (R113). -/
def lineCmd (code : HostData) : List Turn := lineWr 0x08 code

/-- `CLRF <mask>`. -/
def lineClrf (mask : HostData) : List Turn := lineWr 0x0C mask

/-- The environment's unpacking of one byte, the low nibble first (20_memory.md R71 item 5, 46_adjacent_blocks.md
R283). -/
def byteSymbols (b : Byte) : List Sym := [b.extractLsb' 0 4, b.extractLsb' 4 4]

/-- `BYTE <b>`. -/
def lineByte (b : Byte) : List Turn := lineSym (byteSymbols b)

end Sys2Proof.Machine
end

