-- ==== Sys2Proof/Machine/Environment.lean ====
section
/-! DEFINITION. The two blocks around the core that 46_adjacent_blocks.md describes as functions of their input:
FrameBuilder, before SYM_IN, and PacketSynchronizer, after DEC_OUT, and the core together with the latter. They are
the environment and not state of the core (00_scope.md R6, 46 R280, R290). What R299 leaves OPEN is a field of
`FrameParams`, so everything here holds for every choice. [log 12] -/

namespace Sys2Proof.Machine

/-- Which end of the correlation window, as a 32-bit word, holds the newest bit; OPEN (R288). -/
inductive NewestAt where
  | bit0 | bit31
  deriving DecidableEq, Repr

/-- What the payload's CRC is where there is one (R291, R299). -/
structure CrcParams where
  /-- Its width in bits. -/
  width : Nat
  /-- Its polynomial, without the leading term. -/
  polynomial : Nat
  /-- Coverage: whether the length field is part of what is checked. -/
  coversLength : Bool
  /-- Coverage: whether bit `i` of a payload of `n` bytes is part of what is checked, as `covers n i`. -/
  covers : Nat → Nat → Bool
  /-- Position: how the remainder is compared with the check bits, whose place in the payload is not given. -/
  passes : Nat → List Byte → Bool

/-- The OPEN parameters of the environment that the two blocks read (R299). -/
structure FrameParams where
  /-- PREAMBLE. -/
  preamble : List Byte
  /-- ACCESS_CODE; its default is `accessCodeDefault`. -/
  accessCode : BitVec 32
  /-- MAX_FRAME. -/
  maxFrame : Nat
  /-- HAMMING_TOL. -/
  hammingTol : Nat
  /-- The order of the bytes of the access code on the air: byte number `codeOrder i` is sent as number `i`. -/
  codeOrder : Equiv.Perm (Fin 4)
  /-- The order of the bits of a byte: bit `i` of the byte is received as number `bitOrder i` of its eight. -/
  bitOrder : Equiv.Perm (Fin 8)
  /-- Which end of the correlation window is the newest. -/
  newestAt : NewestAt
  /-- CRC_PRESENT and the CRC. -/
  crc : Option CrcParams
  /-- What validation of a payload there is beside the CRC; the spec names it and says nothing of it (R291). -/
  validate : List Byte → Bool

/-- The default of ACCESS_CODE (R282). -/
def accessCodeDefault : BitVec 32 := 0x000000A7

/-- The four bytes of the access code in the order of transmission. -/
def codeBytes (p : FrameParams) : List Byte :=
  (List.finRange 4).map fun i => p.accessCode.extractLsb' (8 * (p.codeOrder i).val) 8

/-- The bytes of a frame in the order of transmission; none where the payload is longer than the length byte or
MAX_FRAME can say (R281, R282). -/
def frameBytes (p : FrameParams) (payload : List Byte) : Option (List Byte) :=
  if payload.length ≤ 255 ∧ payload.length ≤ p.maxFrame then
    some (p.preamble ++ codeBytes p ++ [BitVec.ofNat 8 payload.length] ++ payload)
  else none

/-- The S4 tokens FrameBuilder hands to SYM_IN (R281, R283). -/
def frameSymbols (p : FrameParams) (payload : List Byte) : Option (List Sym) :=
  (frameBytes p payload).map fun bytes => bytes.flatMap byteSymbols

/-- The states of PacketSynchronizer (R287). -/
inductive SinkPhase where
  | searching | synced | readingLength | readingPayload
  deriving DecidableEq, Repr

/-- PacketSinkState (R290). -/
structure PacketSink where
  phase : SinkPhase
  /-- The last 32 bits received: bit `i` came `i` bits before the newest. -/
  window : BitVec 32
  /-- The bits of the field being read, oldest first. -/
  acc : List Bool
  /-- The length counter: the decoded length, in bytes. -/
  length : Nat
  /-- The CRC counter: the remainder of what has been covered so far. -/
  crc : Nat
  deriving DecidableEq, Repr

/-- What PacketSynchronizer gives the message bus (R291). -/
inductive BusMessage where
  /-- A completed frame. -/
  | frame (payload : List Byte)
  /-- The diagnostic event of an IntegrityFailure; the frame is dropped. -/
  | integrityFailure
  deriving DecidableEq, Repr

/-- PacketSinkState at the start of a session and after its restart (R290, R292). -/
def PacketSink.start : PacketSink :=
  { phase := .searching, window := 0, acc := [], length := 0, crc := 0 }

/-- The window after one more bit (R288). -/
def shiftBit (window : BitVec 32) (bit : Bool) : BitVec 32 :=
  window <<< 1 ||| (BitVec.ofBool bit).setWidth 32

/-- The window as the word that is compared with ACCESS_CODE (R288). -/
def windowWord (p : FrameParams) (window : BitVec 32) : BitVec 32 :=
  match p.newestAt with
  | .bit0 => window
  | .bit31 => window.reverse

/-- The Hamming distance of two words (R288). -/
def hammingDistance (a b : BitVec 32) : Nat :=
  ((List.range 32).filter (a ^^^ b).getLsbD).length

/-- The byte that eight bits stand for, given in the order they came; a missing bit counts as 0. [log 14] -/
def byteOfBits (p : FrameParams) (bits : List Bool) : Byte :=
  BitVec.ofNat 8
    (((List.finRange 8).map fun i => (bits.getD (p.bitOrder i).val false).toNat * 2 ^ i.val).sum)

/-- The first `n` bytes of a list of bits, eight bits to a byte. [log 14] -/
def groupBytes (p : FrameParams) : Nat → List Bool → List Byte
  | 0, _ => []
  | n + 1, bits => byteOfBits p (bits.take 8) :: groupBytes p n (bits.drop 8)

/-- One bit taken into the remainder of a division by the polynomial, the highest power first (R291). -/
def crcShift (c : CrcParams) (r : Nat) (bit : Bool) : Nat :=
  let shifted := 2 * r % 2 ^ c.width
  if (r / 2 ^ (c.width - 1) % 2 == 1) != bit then shifted ^^^ (c.polynomial % 2 ^ c.width)
  else shifted

/-- The CRC counter after a bit of the length field. -/
def crcLengthBit (p : FrameParams) (r : Nat) (bit : Bool) : Nat :=
  match p.crc with
  | none => r
  | some c => if c.coversLength then crcShift c r bit else r

/-- The CRC counter after bit `i` of a payload of `n` bytes. -/
def crcPayloadBit (p : FrameParams) (n i r : Nat) (bit : Bool) : Nat :=
  match p.crc with
  | none => r
  | some c => if c.covers n i then crcShift c r bit else r

/-- Validation of an assembled payload and, if present, the CRC check (R291). -/
def accepts (p : FrameParams) (remainder : Nat) (payload : List Byte) : Bool :=
  p.validate payload &&
    match p.crc with
    | none => true
    | some c => c.passes remainder payload

/-- Back to SEARCHING, every counter cleared; the window goes on (R289, R291). -/
def PacketSink.search (k : PacketSink) : PacketSink :=
  { k with phase := .searching, acc := [], length := 0, crc := 0 }

/-- One bit of the length field. The eighth ends it: a length above MAX_FRAME drops the frame, the length 0 emits the
empty frame at once, and any other begins the payload (R289). -/
def readLengthBit (p : FrameParams) (bit : Bool) (k : PacketSink) :
    PacketSink × List BusMessage :=
  let bits := k.acc ++ [bit]
  let n := (byteOfBits p bits).toNat
  let crc := crcLengthBit p k.crc bit
  if bits.length < 8 then ({ k with phase := .readingLength, acc := bits, crc := crc }, [])
  else if p.maxFrame < n then (k.search, [])
  else if n = 0 then (k.search, [.frame []])
  else ({ k with phase := .readingPayload, acc := [], length := n, crc := crc }, [])

/-- One bit of the payload. The last ends it with one message, the frame where it is accepted and else the diagnostic
event, and a return to SEARCHING in either case (R291). -/
def readPayloadBit (p : FrameParams) (bit : Bool) (k : PacketSink) :
    PacketSink × List BusMessage :=
  let bits := k.acc ++ [bit]
  let crc := crcPayloadBit p k.length k.acc.length k.crc bit
  if bits.length < 8 * k.length then ({ k with acc := bits, crc := crc }, [])
  else
    let payload := groupBytes p k.length bits
    (k.search, [if accepts p crc payload then .frame payload else .integrityFailure])

/-- One bit given to PacketSynchronizer (R287 to R291). The spec does not say what a decision stands for; that the
hard bit of one decision is one bit of the window and of the frame is the model's choice. [DESIGN CHOICE, log 14] -/
def PacketSink.receive (p : FrameParams) (bit : Bool) (k : PacketSink) :
    PacketSink × List BusMessage :=
  let j := { k with window := shiftBit k.window bit }
  match k.phase with
  | .searching =>
    if hammingDistance (windowWord p j.window) p.accessCode ≤ p.hammingTol then
      ({ j with phase := .synced, acc := [], length := 0, crc := 0 }, [])
    else (j, [])
  | .synced => readLengthBit p bit j
  | .readingLength => readLengthBit p bit j
  | .readingPayload => readPayloadBit p bit j

/-- The D18 tokens of DEC_OUT given to PacketSynchronizer in order: it takes the hard bit of each and makes no use of
the soft value (R287). With it, what the block gave the message bus, oldest first. -/
def PacketSink.receiveTokens (p : FrameParams) :
    List DecWord → PacketSink → PacketSink × List BusMessage
  | [], k => (k, [])
  | w :: ws, k =>
    let r := k.receive p (decisionHard w)
    let q := receiveTokens p ws r.1
    (q.1, r.2 ++ q.2)

/-- A receive session: the core, the PacketSynchronizer behind it and what that gave the message bus. -/
structure Session where
  core : State
  sink : PacketSink
  bus : List BusMessage
  deriving DecidableEq, Repr

/-- The turns at which the environment restarts PacketSinkState: it issues RESTART_RX or RESTART_ALL, or asserts
reset (R292). -/
def restartsSink (t : Turn) : Bool :=
  match t with
  | .rst => true
  | .host w => decide (decodeHost w = .cmdRestartRx ∨ decodeHost w = .cmdRestartAll)
  | .unit _ => false
  | .offerSym _ => false
  | .offerRxs _ => false
  | .txsReady _ => false
  | .decReady _ => false

/-- One turn of a session: the core's step of the turn, the decisions it put on DEC_OUT taken by PacketSynchronizer,
and the restart of that where the turn restarts the receive half (R287, R292). -/
def Session.turn (p : FrameParams) (t : Turn) (x : Session) : Host.Outcome Session Fault Refusal :=
  match stepTurn t x.core with
  | .next s =>
    let r := x.sink.receiveTokens p (s.decOut.drop x.core.decOut.length)
    .next
      { core := s, sink := if restartsSink t then PacketSink.start else r.1, bus := x.bus ++ r.2 }
  | .fault f => .fault f
  | .refused r => .refused r

/-- One step of a session: the core's next turn. -/
def Session.step (p : FrameParams) (x : Session) : Host.Outcome Session Fault Refusal :=
  ({ x with core := (takeTurn x.core).2 }).turn p (takeTurn x.core).1

end Sys2Proof.Machine
end

