-- ==== Sys2Proof/Machine/Ports.lean ====
section
/-! DEFINITION. What the core drives on its ports between two steps: the ready outputs of the input ports, the valid
and data outputs of the output ports, and the host port's `h_ready` and `h_rdata` (10_state.md R51). While `rst` is 1
every ready and every valid output is 0 (70_reset_and_hazards.md R350). [log 9] -/

namespace Sys2Proof.Machine

/-- `ready` of SYM_IN: SPR.LOAD would take a token. -/
def symInReady (rst : Bool) (s : State) : Bool := !rst && (!s.spr.busy && txRun s)

/-- `ready` of RXS_IN: QDM.STEP would take a token. -/
def rxsInReady (rst : Bool) (s : State) : Bool := !rst && (rxRun s && !full s s.chDem)

/-- `valid` of TXS_OUT: PSH.EMIT would push a token. -/
def txsOutValid (rst : Bool) (s : State) : Bool := !rst && s.psh.busy

/-- `data` of TXS_OUT while it is valid. -/
def txsOutData (s : State) : CplxWord := tokenOf (shape s.build s.psh.hold s.psh.p)

/-- `valid` of DEC_OUT: TRC.EMIT would push a token. -/
def decOutValid (rst : Bool) (s : State) : Bool := !rst && s.trc.need == 0

/-- `data` of DEC_OUT while it is valid. -/
def decOutData (s : State) : DecWord :=
  packDecision (hardBit (slice (emitY s))) (BitVec.ofInt 17 (emitY s))

/-- `h_ready` of the host port. While `rst` is 1 it is 0; else `willing` stands for what the spec leaves open, how long
it is held low (45_host_operations.md R240, 93_implementation_defined.md U13), and may be either value. [log 9] -/
def hReady (rst willing : Bool) : Bool := !rst && willing

/-- `h_rdata` of the host port. [log 5] -/
def hRdataOut (s : State) : HostData := s.hRdata

end Sys2Proof.Machine
end

