-- ==== Sys2Proof/Safety.lean ====
section
/-! DEFINITION. The terms the claims use: a unit's step, when it is enabled, quiescence, runs of unit steps, and the
invariants the spec names. -/

namespace Sys2Proof.Machine

/-- One turn given to a unit. -/
def unitStep (u : Unit5) (s : State) : Host.Outcome State Fault Refusal := stepTurn (.unit u) s

/-- A step of the unit is enabled, from the enabling conditions of its one or two operations (40_chip_spreader.md
R132, R133; 41 R152, R153; 42 R172; 43 R192; 44 R211, R212). -/
def unitEnabled (u : Unit5) (s : State) : Prop :=
  match u with
  | .spr =>
    (s.spr.busy = false ∧ txRun s = true ∧ s.symIn ≠ []) ∨
      (s.spr.busy = true ∧ s.chChip.length < s.build.chDepth)
  | .psh => (s.psh.busy = false ∧ s.chChip ≠ []) ∨ (s.psh.busy = true ∧ s.txsReady = true)
  | .qdm => rxRun s = true ∧ s.rxsIn ≠ [] ∧ s.chDem.length < s.build.chDepth
  | .dct => s.chDem ≠ [] ∧ s.chDcc.length < s.build.chDepth
  | .trc => (s.trc.need ≠ 0 ∧ s.chDcc ≠ []) ∨ (s.trc.need = 0 ∧ s.decReady = true)

/-- No step of any unit is enabled (20_memory.md R84). -/
def quiescent (s : State) : Prop := ∀ u : Unit5, ¬ unitEnabled u s

/-- The turns of these units, one after the other. -/
def runUnits : List Unit5 → State → Host.Outcome State Fault Refusal
  | [], s => .next s
  | u :: us, s =>
    match unitStep u s with
    | .next t => runUnits us t
    | .fault r => .fault r
    | .refused r => .refused r

/-- The 32 chips of a symbol as tokens, chip 0 first (40_chip_spreader.md R130, R131). -/
def chipTokens (b : Build) (sym : Sym) : List CplxWord :=
  (List.range 32).map fun k => tokenOf (chip b sym (BitVec.ofNat 5 k))

/-- The four samples of a chip as tokens (41_pulse_shaper.md R151, R156). -/
def chipSamples (b : Build) (w : CplxWord) : List CplxWord :=
  (List.range 4).map fun p => tokenOf (shape b (unpackCplx w) (BitVec.ofNat 2 p))

/-- What QDM and DCT make of a list of samples, from the sample before them and the estimate (42_quadrature_demod.md
R172, 43_dc_tracker.md R192). -/
def dccStream (b : Build) (alpha : Gain) : Cplx → Est → List CplxWord → List Dcc
  | _, _, [] => []
  | prev, est, w :: ws =>
    let ang := demodulate b (unpackCplx w) prev
    BitVec.ofInt 17 (dcCorrected alpha est ang) ::
      dccStream b alpha (unpackCplx w) (BitVec.ofInt 40 (trackedEstimate alpha est ang)) ws

/-- The four unit chips as tokens (00_scope.md R17, 30_encoding.md R102). -/
def unitChipTokens : List CplxWord := [0x00004000, 0x0000C000, 0x40000000, 0xC0000000]

/-- The sequencing counters: an idle SPR or PSH counts from 0 (40_chip_spreader.md R134, 41_pulse_shaper.md R154), and
`TRC.need` is at most 272 (44_timing_recovery.md R214). -/
def sequencingOk (s : State) : Prop :=
  (s.spr.busy = false → s.spr.k = 0) ∧ (s.psh.busy = false → s.psh.p = 0) ∧ s.trc.need.toNat ≤ 272

/-- The internal channels hold no more than CH_DEPTH tokens (10_state.md R50) and only tokens their producers make
(30_encoding.md R102, R103). -/
def channelsOk (s : State) : Prop :=
  s.chChip.length ≤ s.build.chDepth ∧ s.chDem.length ≤ s.build.chDepth ∧
    s.chDcc.length ≤ s.build.chDepth ∧ (∀ c ∈ s.chChip, c ∈ unitChipTokens) ∧
    (∀ a ∈ s.chDem, -25736 ≤ a.toInt ∧ a.toInt ≤ 25736) ∧
    (∀ x ∈ s.chDcc, -65535 ≤ x.toInt ∧ x.toInt ≤ 65535)

/-- The loop and the estimate: the previous decision is the sign of the previous sample and the last error is at most
65536 (44_timing_recovery.md R210), the period is at most 2^32 - 2 (00_scope.md R15), and the DC estimate is at most
the largest input (43_dc_tracker.md R193). -/
def loopOk (s : State) : Prop :=
  (s.trc.dPrev = .minus ↔ s.trc.yPrev.toInt < 0) ∧ -65536 ≤ s.trc.err.toInt ∧
    s.trc.err.toInt ≤ 65536 ∧ s.trc.omega.toNat ≤ 4294967294 ∧
    s.dctEst.toInt ≤ 32767 * 16777216

/-- The unit whose operation this is; none for the host's operations and RESET. -/
def unitOf : Instr → Option Unit5
  | .sprLoad _ => some .spr
  | .sprEmit _ => some .spr
  | .pshLoad _ _ => some .psh
  | .pshEmit _ => some .psh
  | .qdmStep _ _ => some .qdm
  | .dctStep _ => some .dct
  | .trcShift _ => some .trc
  | .trcEmit => some .trc
  | .hostRd _ _ => none
  | .hostWrCtrl _ => none
  | .cmdNop => none
  | .cmdRestartTx => none
  | .cmdRestartRx => none
  | .cmdRestartAll => none
  | .cmdRsvd _ => none
  | .hostWrStatus _ => none
  | .hostWrDctAlpha _ => none
  | .hostWrTrcGainMu _ => none
  | .hostWrTrcGainOmega _ => none
  | .hostWrTrcOmegaMid _ => none
  | .hostWrTrcOmegaRlim _ => none
  | .hostWrTrcMuInit _ => none
  | .hostWrOther _ _ => none
  | .reset => none

/-- A step of the transmit half (20_memory.md R80 item 5): a unit step of SPR or PSH, or the restart of that half. -/
def transmitStep (i : Instr) : Prop :=
  unitOf i = some .spr ∨ unitOf i = some .psh ∨ i = .cmdRestartTx

/-- A step of the receive half (R80 item 5). -/
def receiveStep (i : Instr) : Prop :=
  unitOf i = some .qdm ∨ unitOf i = some .dct ∨ unitOf i = some .trc ∨ i = .cmdRestartRx

end Sys2Proof.Machine
end

