-- ==== Sys2Proof/Certificates/Slice0/Obligations.lean ====
section
/-! DEFINITION. The statements for the provers, from the numbered rules of spec/. In the titles "waits" means that a
turn given to the unit changes nothing (log 2). A next state given as an update of the state before says that every
field it does not name is kept; that `hRdata` and the ready inputs, the agenda and `freeTurns` are kept by an operation
that does not name them is the model's choice (log 5, log 4, log 1) wherever it is said. -/

open Sys2Proof Sys2Proof.Machine

/-! ## The unit operations -/

/-- R132. -/
def Obligations.SprLoadTakesTheSymbol : Prop :=
  ∀ (s : State) (sym : Sym) (rest : List Sym),
    s.symIn = sym :: rest → s.spr.busy = false →
      stepTurn (.unit .spr) s = exec (.sprLoad sym) s ∧
      (s.ctrl.getLsbD 0 = true →
        exec (.sprLoad sym) s =
          .next { s with spr := { busy := true, sym := sym, k := 0 }, symIn := rest }) ∧
      (s.ctrl.getLsbD 0 = false → exec (.sprLoad sym) s = .next s)

/-- R133, with the chip function of R131 and the packing of R102. -/
def Obligations.SprEmitPushesTheChip : Prop :=
  ∀ (s : State) (k : BitVec 5), s.spr.busy = true → s.spr.k = k →
    stepTurn (.unit .spr) s = exec (.sprEmit k) s ∧
    (s.chChip.length < s.build.chDepth →
      exec (.sprEmit k) s =
        .next { s with
          chChip := s.chChip ++
            [if (s.build.chipRom.toList.getD s.spr.sym.toNat 0).toNat / 2 ^ k.toNat % 2 = 1 then
              if k.toNat % 2 = 0 then 0x00004000 else 0x40000000
             else if k.toNat % 2 = 0 then 0x0000C000 else 0xC0000000]
          spr :=
            { busy := decide (k ≠ 31), sym := s.spr.sym, k := if k = 31 then 0 else k + 1 } }) ∧
    (s.build.chDepth ≤ s.chChip.length → exec (.sprEmit k) s = .next s)

/-- R152. -/
def Obligations.PshLoadTakesTheChip : Prop :=
  ∀ (s : State) (w : CplxWord) (rest : List CplxWord),
    s.chChip = w :: rest → s.psh.busy = false →
      stepTurn (.unit .psh) s = exec (.pshLoad (w.extractLsb' 16 16) (w.extractLsb' 0 16)) s ∧
      exec (.pshLoad (w.extractLsb' 16 16) (w.extractLsb' 0 16)) s =
        .next { s with
          chChip := rest
          psh :=
            { busy := true, p := 0
              hold := { re := w.extractLsb' 0 16, im := w.extractLsb' 16 16 } } }

/-- R153, with the shaping function of R151. -/
def Obligations.PshEmitPushesTheWeightedSample : Prop :=
  ∀ (s : State) (p : BitVec 2), s.psh.busy = true → s.psh.p = p →
    stepTurn (.unit .psh) s = exec (.pshEmit p) s ∧
    (s.txsReady = true →
      let w : Int := (s.build.pshW.toList.getD p.toNat 0).toNat
      exec (.pshEmit p) s =
        .next { s with
          txsOut := s.txsOut ++
            [BitVec.ofInt 16 ((s.psh.hold.im.toInt * w + 8192) / 16384) ++
              BitVec.ofInt 16 ((s.psh.hold.re.toInt * w + 8192) / 16384)]
          psh :=
            { busy := decide (p ≠ 3), hold := s.psh.hold, p := if p = 3 then 0 else p + 1 } }) ∧
    (s.txsReady = false → exec (.pshEmit p) s = .next s)

/-- R172, with the conjugate product of R171; the arctangent is the subject of the two statements on R173. -/
def Obligations.QdmStepPushesThePhaseDifference : Prop :=
  ∀ (s : State) (w : CplxWord) (rest : List CplxWord), s.rxsIn = w :: rest →
    stepTurn (.unit .qdm) s = exec (.qdmStep (w.extractLsb' 16 16) (w.extractLsb' 0 16)) s ∧
    (s.ctrl.getLsbD 1 = true → s.chDem.length < s.build.chDepth →
      let a := (w.extractLsb' 0 16).toInt
      let b := (w.extractLsb' 16 16).toInt
      let c := s.qdmPrev.re.toInt
      let d := s.qdmPrev.im.toInt
      let re := a * c + b * d
      let im := b * c - a * d
      exec (.qdmStep (w.extractLsb' 16 16) (w.extractLsb' 0 16)) s =
        .next { s with
          rxsIn := rest
          qdmPrev := { re := w.extractLsb' 0 16, im := w.extractLsb' 16 16 }
          chDem := s.chDem ++
            [if re = 0 ∧ im = 0 then 0 else BitVec.ofInt 16 (atan2Q s.build im re)]
          sticky := if re = 0 ∧ im = 0 then s.sticky ||| 2 else s.sticky }) ∧
    (s.ctrl.getLsbD 1 = false ∨ s.build.chDepth ≤ s.chDem.length →
      exec (.qdmStep (w.extractLsb' 16 16) (w.extractLsb' 0 16)) s = .next s)

/-- R192. -/
def Obligations.DctStepTracksAndSubtracts : Prop :=
  ∀ (s : State) (x : Ang) (rest : List Ang), s.chDem = x :: rest →
    stepTurn (.unit .dct) s = exec (.dctStep x) s ∧
    (s.chDcc.length < s.build.chDepth →
      let diff := x.toInt * 2 ^ 24 - s.dctEst.toInt
      let estNew := s.dctEst.toInt + (s.dctAlpha.toNat : Int) * diff / 2 ^ 24
      exec (.dctStep x) s =
        .next { s with
          chDem := rest
          dctEst := BitVec.ofInt 40 estNew
          chDcc := s.chDcc ++ [BitVec.ofInt 17 (x.toInt - estNew / 2 ^ 24)] }) ∧
    (s.build.chDepth ≤ s.chDcc.length → exec (.dctStep x) s = .next s)

/-- R211. -/
def Obligations.TrcShiftMovesTheWindow : Prop :=
  ∀ (s : State) (x : Dcc) (rest : List Dcc), s.chDcc = x :: rest → s.trc.need ≠ 0 →
    stepTurn (.unit .trc) s = exec (.trcShift x) s ∧
    ∃ win : Vector Dcc 8, win.toList = s.trc.win.toList.tail ++ [x] ∧
      exec (.trcShift x) s =
        .next { s with
          chDcc := rest, trc := { s.trc with win := win, need := s.trc.need - 1 } }

/-- R212, with R208 to R210 written out. -/
def Obligations.TrcEmitDecidesAndUpdatesTheLoop : Prop :=
  ∀ s : State, s.trc.need = 0 →
    stepTurn (.unit .trc) s = exec .trcEmit s ∧
    (s.decReady = true →
      let row := s.build.irom.toList.getD ((s.trc.mu.toNat + 2 ^ 18) / 2 ^ 19) #v[0, 0, 0, 0, 0, 0, 0, 0]
      let acc := (List.zipWith (fun (x : Dcc) (c : Coef) => x.toInt * c.toInt)
        s.trc.win.toList row.toList).sum
      let y0 := (acc + 8192) / 2 ^ 14
      let y := max (-65536) (min 65535 y0)
      let d : Int := if y < 0 then -1 else 1
      let dPrev : Int := if s.trc.dPrev = .minus then -1 else 1
      let e := dPrev * y - d * s.trc.yPrev.toInt
      let go := (s.trcGainOmega.toNat : Int) * e / 2 ^ 13
      let om1 := (s.trc.omega.toNat : Int) + go
      let lim := (s.trcOmegaMid.toNat : Int) * (s.trcOmegaRlim.toNat : Int) / 2 ^ 24
      let lo := (s.trcOmegaMid.toNat : Int) - lim
      let hi := (s.trcOmegaMid.toNat : Int) + lim
      let om2 := if om1 < lo then lo else if om1 > hi then hi else om1
      let gm := (s.trcGainMu.toNat : Int) * e / 2 ^ 13
      let t0 := (s.trc.mu.toNat : Int) + om2 + gm
      let t := if t0 < 0 then 0 else t0
      exec .trcEmit s =
        .next { s with
          sticky := s.sticky ||| (if y ≠ y0 then 4 else 0) |||
            (if om2 ≠ om1 ∨ t0 < 0 then 1 else 0)
          trc :=
            { win := s.trc.win
              need := BitVec.ofInt 9 (t / 2 ^ 24)
              mu := BitVec.ofInt 24 (t % 2 ^ 24)
              omega := BitVec.ofInt 32 om2
              yPrev := BitVec.ofInt 17 y
              dPrev := if y < 0 then .minus else .plus
              err := BitVec.ofInt 18 e }
          decOut := s.decOut ++ [(if y < 0 then (0 : BitVec 1) else 1) ++ BitVec.ofInt 17 y] }) ∧
    (s.decReady = false → exec .trcEmit s = .next s)

/-- R338: "A unit with no enabled step is idle and keeps all its state". -/
def Obligations.UnitWithNoEnabledStepKeepsTheState : Prop :=
  ∀ (u : Unit5) (s : State), ¬ unitEnabled u s → unitStep u s = .next s

/-- The model's choice (log 2): an operation of a unit whose selecting word is not the unit's present one, such as the
loading of a token that is not the oldest, changes nothing. -/
def Obligations.UnselectedUnitOperationChangesNothing : Prop :=
  ∀ (i : Instr) (u : Unit5) (s : State), unitOf i = some u → unitKey u s ≠ some (encode i) →
    exec i s = .next s

/-! ## The host operations, the commands and the reset -/

/-- R241, with the map of 10_state.md R23 to R29. The four clauses cover the 256 addresses. -/
def Obligations.HostReadReturnsTheMappedWord : Prop :=
  ∀ (s : State) (wdata : HostData),
    (∀ w : HostWord, w.getLsbD 40 = false →
      stepTurn (.host w) s = exec (.hostRd (w.extractLsb' 32 8) (w.extractLsb' 0 32)) s) ∧
    (∀ r ∈ ([(0x00, 0x4F515031),
        (0x04, BitVec.ofNat 32 s.ctrl.toNat),
        (0x08, 0),
        (0x0C, BitVec.ofNat 32 (s.sticky.toNat +
          256 * (if s.spr.busy = true ∨ s.psh.busy = true ∨ s.chChip ≠ [] then 1 else 0) +
          512 * (if s.chDem ≠ [] ∨ s.chDcc ≠ [] ∨ s.trc.need = 0 then 1 else 0))),
        (0x10, BitVec.ofNat 32 s.dctAlpha.toNat),
        (0x14, BitVec.ofNat 32 s.trcGainMu.toNat),
        (0x18, BitVec.ofNat 32 s.trcGainOmega.toNat),
        (0x1C, BitVec.ofNat 32 s.trcOmegaMid.toNat),
        (0x20, BitVec.ofNat 32 s.trcOmegaRlim.toNat),
        (0x24, BitVec.ofNat 32 s.trcMuInit.toNat),
        (0x28, s.trc.omega),
        (0x2C, BitVec.ofNat 32 s.trc.mu.toNat),
        (0x30, BitVec.ofInt 32 (s.dctEst.toInt / 256)),
        (0x34, BitVec.ofInt 32 s.trc.err.toInt)] : List (HostAddr × HostData)),
      exec (.hostRd r.1 wdata) s = .next { s with hRdata := r.2 }) ∧
    (∀ sym : Sym, exec (.hostRd (BitVec.ofNat 8 (0x40 + 4 * sym.toNat)) wdata) s =
      .next { s with hRdata := s.build.chipRom.toList.getD sym.toNat 0 }) ∧
    (∀ addr : HostAddr,
      (addr.toNat % 4 ≠ 0 ∨ addr.toNat = 0x38 ∨ addr.toNat = 0x3C ∨ 0x80 ≤ addr.toNat) →
        exec (.hostRd addr wdata) s =
          .next { s with hRdata := 0, sticky := s.sticky ||| 0x10 })

/-- R243. -/
def Obligations.HostWriteCtrlSetsTheRunBits : Prop :=
  ∀ s : State,
    (∀ wdata : HostData,
      exec (.hostWrCtrl wdata) s = .next { s with ctrl := BitVec.ofNat 2 wdata.toNat }) ∧
    (∀ w : HostWord, w &&& 0x1FF00000000 = 0x10400000000 →
      stepTurn (.host w) s = exec (.hostWrCtrl (w.extractLsb' 0 32)) s)

/-- R246, bit by bit. -/
def Obligations.HostWriteStatusClearsTheFlagsWritten : Prop :=
  ∀ s : State,
    (∀ wdata : HostData, ∃ f : BitVec 5,
      (∀ i < 5, f.getLsbD i = (s.sticky.getLsbD i && !wdata.getLsbD i)) ∧
        exec (.hostWrStatus wdata) s = .next { s with sticky := f }) ∧
    (∀ w : HostWord, w &&& 0x1FF00000000 = 0x10C00000000 →
      stepTurn (.host w) s = exec (.hostWrStatus (w.extractLsb' 0 32)) s)

/-- R247 to R252: the six writes and the words that select them. -/
def Obligations.ConfigurationWriteSetsOneRegister : Prop :=
  ∀ (s : State) (wdata : HostData),
    exec (.hostWrDctAlpha wdata) s = .next { s with dctAlpha := BitVec.ofNat 24 wdata.toNat } ∧
    exec (.hostWrTrcGainMu wdata) s = .next { s with trcGainMu := BitVec.ofNat 24 wdata.toNat } ∧
    exec (.hostWrTrcGainOmega wdata) s =
      .next { s with trcGainOmega := BitVec.ofNat 24 wdata.toNat } ∧
    exec (.hostWrTrcOmegaMid wdata) s =
      .next { s with trcOmegaMid := BitVec.ofNat 31 wdata.toNat } ∧
    exec (.hostWrTrcOmegaRlim wdata) s =
      .next { s with trcOmegaRlim := BitVec.ofNat 24 wdata.toNat } ∧
    exec (.hostWrTrcMuInit wdata) s = .next { s with trcMuInit := BitVec.ofNat 24 wdata.toNat } ∧
    ∀ w : HostWord,
      (w &&& 0x1FF00000000 = 0x11000000000 →
        stepTurn (.host w) s = exec (.hostWrDctAlpha (w.extractLsb' 0 32)) s) ∧
      (w &&& 0x1FF00000000 = 0x11400000000 →
        stepTurn (.host w) s = exec (.hostWrTrcGainMu (w.extractLsb' 0 32)) s) ∧
      (w &&& 0x1FF00000000 = 0x11800000000 →
        stepTurn (.host w) s = exec (.hostWrTrcGainOmega (w.extractLsb' 0 32)) s) ∧
      (w &&& 0x1FF00000000 = 0x11C00000000 →
        stepTurn (.host w) s = exec (.hostWrTrcOmegaMid (w.extractLsb' 0 32)) s) ∧
      (w &&& 0x1FF00000000 = 0x12000000000 →
        stepTurn (.host w) s = exec (.hostWrTrcOmegaRlim (w.extractLsb' 0 32)) s) ∧
      (w &&& 0x1FF00000000 = 0x12400000000 →
        stepTurn (.host w) s = exec (.hostWrTrcMuInit (w.extractLsb' 0 32)) s)

/-- R253. -/
def Obligations.HostWriteElsewhereSetsBadAddr : Prop :=
  ∀ s : State,
    (∀ (addr : HostAddr) (wdata : HostData),
      exec (.hostWrOther addr wdata) s = .next { s with sticky := s.sticky ||| 0x10 }) ∧
    (∀ w : HostWord, w.getLsbD 40 = true →
      w.extractLsb' 32 8 ∉
        ([0x04, 0x08, 0x0C, 0x10, 0x14, 0x18, 0x1C, 0x20, 0x24] : List HostAddr) →
      stepTurn (.host w) s = exec (.hostWrOther (w.extractLsb' 32 8) (w.extractLsb' 0 32)) s)

/-- R254. -/
def Obligations.CmdNopChangesNothing : Prop :=
  ∀ s : State, exec .cmdNop s = .next s ∧ stepTurn (.host 0x10800000000) s = exec .cmdNop s

/-- R255. -/
def Obligations.CmdRestartTxClearsTheTransmitHalf : Prop :=
  ∀ s : State,
    exec .cmdRestartTx s =
      .next { s with
        spr := { busy := false, sym := 0, k := 0 }
        psh := { busy := false, hold := { re := 0, im := 0 }, p := 0 }
        chChip := [] } ∧
    stepTurn (.host 0x10800000001) s = exec .cmdRestartTx s

/-- R256. -/
def Obligations.CmdRestartRxStartsTheReceiveStream : Prop :=
  ∀ s : State,
    exec .cmdRestartRx s =
      .next { s with
        qdmPrev := { re := 0, im := 0 }
        dctEst := 0
        trc :=
          { win := #v[0, 0, 0, 0, 0, 0, 0, 0], need := 8, mu := s.trcMuInit
            omega := BitVec.ofNat 32 s.trcOmegaMid.toNat, yPrev := 0, dPrev := .plus, err := 0 }
        chDem := []
        chDcc := [] } ∧
    stepTurn (.host 0x10800000002) s = exec .cmdRestartRx s

/-- R257. -/
def Obligations.CmdRestartAllRestartsBothHalves : Prop :=
  ∀ s : State,
    (∃ t u : State, exec .cmdRestartTx s = .next t ∧ exec .cmdRestartRx t = .next u ∧
      exec .cmdRestartAll s = .next u) ∧
    stepTurn (.host 0x10800000003) s = exec .cmdRestartAll s

/-- R259. -/
def Obligations.ReservedCommandSetsBadCmd : Prop :=
  ∀ s : State,
    (∀ wdata : HostData, 4 ≤ wdata.toNat →
      exec (.cmdRsvd wdata) s = .next { s with sticky := s.sticky ||| 8 }) ∧
    (∀ w : HostWord, w &&& 0x1FF00000000 = 0x10800000000 → 4 ≤ (w.extractLsb' 0 32).toNat →
      stepTurn (.host w) s = exec (.cmdRsvd (w.extractLsb' 0 32)) s)

/-- R350: the core's own state becomes that of R60, the tokens at the input ports stay, and while `rst` is 1 every valid
and every ready output is 0, `h_ready` among them. That `hRdata` (log 5), the accepted tokens (log 3), the ready inputs
(log 4) and the model's own fields (log 1) stay as they were is the model's choice and no rule of the spec. -/
def Obligations.ResetLeavesTheResetState : Prop :=
  ∀ s : State,
    exec .reset s =
      .next { State.reset with
        build := s.build, hRdata := s.hRdata, symIn := s.symIn, rxsIn := s.rxsIn
        txsOut := s.txsOut, decOut := s.decOut, txsReady := s.txsReady, decReady := s.decReady
        agenda := s.agenda, freeTurns := s.freeTurns } ∧
    stepTurn .rst s = exec .reset s ∧
    symInReady true s = false ∧ rxsInReady true s = false ∧
    txsOutValid true s = false ∧ decOutValid true s = false ∧
    (∀ willing : Bool, hReady true willing = false)

/-- R60, the table of reset values, with the tables of R30 to R33 written out as the spec gives them. -/
def Obligations.ResetValuesAreTheTableOfR60 : Prop :=
  hostReg 0x00 State.reset = some 0x4F515031 ∧
  State.reset.ctrl = 3 ∧ State.reset.sticky = 0 ∧ State.reset.dctAlpha = 0x000A7C ∧
  State.reset.trcGainMu = 0x07AE14 ∧ State.reset.trcGainOmega = 0x000D1B ∧
  State.reset.trcOmegaMid = 0x02000000 ∧ State.reset.trcOmegaRlim = 0x800000 ∧
  State.reset.trcMuInit = 0x800000 ∧
  State.reset.spr = { busy := false, sym := 0, k := 0 } ∧
  State.reset.psh = { busy := false, hold := { re := 0, im := 0 }, p := 0 } ∧
  State.reset.qdmPrev = { re := 0, im := 0 } ∧ State.reset.dctEst = 0 ∧
  State.reset.trc =
    { win := #v[0, 0, 0, 0, 0, 0, 0, 0], need := 8, mu := 0x800000, omega := 0x02000000
      yPrev := 0, dPrev := .plus, err := 0 } ∧
  State.reset.chChip = [] ∧ State.reset.chDem = [] ∧ State.reset.chDcc = [] ∧
  statusWord State.reset = 0 ∧
  State.reset.build.chipRom.toList =
    [0x744AC39B, 0x44AC39B7, 0x4AC39B74, 0xAC39B744,
     0xC39B744A, 0x39B744AC, 0x9B744AC3, 0xB744AC39,
     0xDEE06931, 0xEE06931D, 0xE06931DE, 0x06931DEE,
     0x6931DEE0, 0x931DEE06, 0x31DEE069, 0x1DEE0693] ∧
  State.reset.build.pshW.toList = [0, 11585, 16384, 11585] ∧
  State.reset.build.atanRom.toList =
    [13176795, 7778716, 4110060, 2086331, 1047214, 524117, 262123, 131069,
     65536, 32768, 16384, 8192, 4096, 2048, 1024, 512] ∧
  State.reset.build.irom.toList.map (fun row => row.toList.map BitVec.toInt) =
    [[0, 0, 0, 16384, 0, 0, 0, 0],
     [-23, 123, -419, 16354, 455, -133, 27, 0],
     [-43, 235, -800, 16265, 945, -275, 57, 0],
     [-59, 335, -1144, 16122, 1467, -426, 90, -1],
     [-72, 423, -1449, 15919, 2021, -584, 127, -1],
     [-82, 500, -1716, 15663, 2603, -748, 166, -2],
     [-89, 565, -1945, 15353, 3212, -916, 208, -4],
     [-94, 617, -2136, 14993, 3844, -1086, 252, -6],
     [-95, 659, -2291, 14584, 4495, -1257, 298, -9],
     [-95, 689, -2410, 14132, 5164, -1427, 344, -13],
     [-93, 708, -2496, 13640, 5846, -1594, 391, -18],
     [-89, 718, -2549, 13106, 6538, -1755, 438, -23],
     [-84, 718, -2571, 12539, 7235, -1908, 484, -29],
     [-78, 710, -2565, 11941, 7934, -2051, 528, -35],
     [-71, 694, -2532, 11316, 8631, -2182, 570, -42],
     [-64, 671, -2475, 10669, 9322, -2298, 608, -49],
     [-57, 642, -2396, 10003, 10003, -2396, 642, -57],
     [-49, 608, -2298, 9322, 10669, -2475, 671, -64],
     [-42, 570, -2182, 8631, 11316, -2532, 694, -71],
     [-35, 528, -2051, 7934, 11941, -2565, 710, -78],
     [-29, 484, -1908, 7235, 12539, -2571, 718, -84],
     [-23, 438, -1755, 6538, 13106, -2549, 718, -89],
     [-18, 391, -1594, 5846, 13640, -2496, 708, -93],
     [-13, 344, -1427, 5164, 14132, -2410, 689, -95],
     [-9, 298, -1257, 4495, 14584, -2291, 659, -95],
     [-6, 252, -1086, 3844, 14993, -2136, 617, -94],
     [-4, 208, -916, 3212, 15353, -1945, 565, -89],
     [-2, 166, -748, 2603, 15663, -1716, 500, -82],
     [-1, 127, -584, 2021, 15919, -1449, 423, -72],
     [-1, 90, -426, 1467, 16122, -1144, 335, -59],
     [0, 57, -275, 945, 16265, -800, 235, -43],
     [0, 27, -133, 455, 16354, -419, 123, -23],
     [0, 0, 0, 0, 16384, 0, 0, 0]]

/-- R258 for the core. The second clause is about a session, which is the model's choice (log 12): that PacketSinkState
restarts in the same turn as the core is read from R292, and that the message bus is sent nothing then is said by neither
rule. -/
def Obligations.RestartsAndResetAreIdempotent : Prop :=
  (∀ (s t : State), ∀ i ∈ [Instr.cmdRestartTx, .cmdRestartRx, .cmdRestartAll, .reset],
    exec i s = .next t →
      exec i t = .next t ∧ (i = .reset → exec .cmdRestartAll t = .next t)) ∧
  ∀ (p : FrameParams) (x : Session),
    ∀ turn ∈ [Turn.rst, .host 0x10800000002, .host 0x10800000003],
      ∃ y : Session, x.turn p turn = .next y ∧
        y.sink = { phase := .searching, window := 0, acc := [], length := 0, crc := 0 } ∧
        y.bus = x.bus ∧ y.turn p turn = .next y

/-! ## Decoding and stepping -/

/-- Decode and encode agree on every well-formed operation. -/
def Obligations.DecodeOfEncodeIsTheOperation : Prop :=
  ∀ i : Instr, i.wf = true → decode (encode i) = .ok i

/-- Every word that decodes is the word of a well-formed operation. -/
def Obligations.EncodeOfDecodeIsTheWord : Prop :=
  ∀ (key : Key) (i : Instr), decode key = .ok i → encode i = key ∧ i.wf = true

/-- The same through the bytes of the words. That a word of any format is laid in bytes little-endian is the model's
choice (log 11): the spec gives a byte order only for host data behind a byte bus. -/
def Obligations.BytesOfAnOperationDecodeToIt : Prop :=
  ∀ i : Instr, i.wf = true → decodeBytes i.format (encodeBytes i) = .ok i

/-- R107: "Among host rows that match a word, the row whose mask has the most 1 bits applies." -/
def Obligations.HostRowWithTheMostMaskBitsApplies : Prop :=
  ∀ w : HostWord, ∃ r ∈ hostRows, hostRowOf (decodeHost w) = some r ∧ w &&& r.1 = r.2 ∧
    ∀ q ∈ hostRows, w &&& q.1 = q.2 → q = r ∨ maskOnes q.1 < maskOnes r.1

/-- Words of the spec's examples decode to their operations. -/
def Obligations.ExampleWordsDecode : Prop :=
  decode (.sq6 0b100001) = .ok (.sprEmit 1) ∧ decode (.pq3 0b110) = .ok (.pshEmit 2) ∧
  decode (.c32 0xC0000000) = .ok (.pshLoad 0xC000 0) ∧
  decode (.x32 0x2D41D2BF) = .ok (.qdmStep 0x2D41 0xD2BF) ∧
  decode (.h41 0x104FFFFFFFE) = .ok (.hostWrCtrl 0xFFFFFFFE) ∧
  decode (.h41 0x10800000103) = .ok (.cmdRsvd 0x103) ∧
  decode (.h41 0x10000000005) = .ok (.hostWrOther 0 5) ∧
  decode (.tq9 8) = .error .needsToken

/-- A step takes a turn and runs the operation that the turn's word decodes to. That the turns stand in an agenda whose
head a step uses up is the model's choice (log 1); the spec says only that any enabled step may be next. -/
def Obligations.StepRunsTheDecodedOperation : Prop :=
  ∀ (s : State) (turn : Turn) (rest : List Turn) (key : Key) (i : Instr),
    s.agenda = turn :: rest → fetch turn { s with agenda := rest } = some key →
      decode key = .ok i → step s = exec i { s with agenda := rest }

/-- The model's choice (log 10): a placed word is what the next step runs, from every state. -/
def Obligations.PlacedWordIsTheNextOperation : Prop :=
  ∀ (s : State) (nbits w : Nat) (i : Instr), decodeTableWord nbits w = some i →
    step (s.withFetchWord nbits w) = exec i { s.withFetchWord nbits w with agenda := s.agenda }

/-! ## The whole machine -/

/-- R320: no event and no other cause ends a run. -/
def Obligations.EveryStepAnswersANextState : Prop :=
  ∀ s : State, ∃ t : State, step s = .next t

/-- The sequencing invariants of R134, R154 and R214 are kept by every step. -/
def Obligations.StepKeepsTheSequencingInvariant : Prop :=
  ∀ s t : State, sequencingOk s → step s = .next t → sequencingOk t

/-- R50, R102 and R103: every step keeps the channels within their capacity and their tokens in range. -/
def Obligations.StepKeepsTheChannelInvariant : Prop :=
  ∀ s t : State, channelsOk s → step s = .next t → channelsOk t

/-- R193, R210 and R15: every step keeps the loop's and the tracker's registers in their ranges. -/
def Obligations.StepKeepsTheLoopInvariant : Prop :=
  ∀ s t : State, loopOk s → step s = .next t → loopOk t

/-- The three invariants hold after reset. -/
def Obligations.ResetStateMeetsTheInvariants : Prop :=
  sequencingOk State.reset ∧ channelsOk State.reset ∧ loopOk State.reset

/-- R87: no agent writes a table. -/
def Obligations.StepNeverWritesATable : Prop :=
  ∀ s t : State, step s = .next t → t.build = s.build

/-- R81: steps of two units that are both enabled commute, so which is taken next does not matter. -/
def Obligations.EnabledUnitStepsCommute : Prop :=
  ∀ (s : State) (u v : Unit5), u ≠ v → unitEnabled u s → unitEnabled v s →
    ∃ a b c : State, unitStep u s = .next a ∧ unitStep v s = .next b ∧
      unitEnabled v a ∧ unitEnabled u b ∧ unitStep v a = .next c ∧ unitStep u b = .next c

/-- R80 item 5: "steps of one half commute with steps of the other". -/
def Obligations.TransmitAndReceiveStepsCommute : Prop :=
  ∀ (s : State) (i j : Instr), transmitStep i → receiveStep j →
    ∃ a b c : State, exec i s = .next a ∧ exec j s = .next b ∧
      exec j a = .next c ∧ exec i b = .next c

/-- 10_state.md section 5: each private register is written only by its own unit's operations, by restart and by
reset. -/
def Obligations.OnlyTheOwnerWritesAUnitsRegisters : Prop :=
  ∀ (i : Instr) (s t : State), exec i s = .next t → i ≠ .reset → i ≠ .cmdRestartAll →
    (unitOf i ≠ some .spr → i ≠ .cmdRestartTx → t.spr = s.spr) ∧
    (unitOf i ≠ some .psh → i ≠ .cmdRestartTx → t.psh = s.psh) ∧
    (unitOf i ≠ some .qdm → i ≠ .cmdRestartRx → t.qdmPrev = s.qdmPrev) ∧
    (unitOf i ≠ some .dct → i ≠ .cmdRestartRx → t.dctEst = s.dctEst) ∧
    (unitOf i ≠ some .trc → i ≠ .cmdRestartRx → t.trc = s.trc)

/-- R20, R240: no unit step and no restart changes CTRL or a configuration register, and no operation of the core
changes what waits at the input ports except by taking the oldest token. That `hRdata` is kept is the model's choice
(log 5). -/
def Obligations.UnitStepsKeepTheConfiguration : Prop :=
  ∀ (i : Instr) (s t : State), exec i s = .next t →
    (unitOf i ≠ none ∨ i = .cmdRestartTx ∨ i = .cmdRestartRx ∨ i = .cmdRestartAll) →
    t.ctrl = s.ctrl ∧ t.dctAlpha = s.dctAlpha ∧ t.trcGainMu = s.trcGainMu ∧
    t.trcGainOmega = s.trcGainOmega ∧ t.trcOmegaMid = s.trcOmegaMid ∧
    t.trcOmegaRlim = s.trcOmegaRlim ∧ t.trcMuInit = s.trcMuInit ∧ t.hRdata = s.hRdata ∧
    (t.symIn = s.symIn ∨ t.symIn = s.symIn.tail) ∧ (t.rxsIn = s.rxsIn ∨ t.rxsIn = s.rxsIn.tail)

/-- R22, R322: a set flag stays set through every operation but a host clear and the reset. -/
def Obligations.FlagsAreClearedOnlyByHostOrReset : Prop :=
  ∀ (i : Instr) (s t : State) (n : Nat), exec i s = .next t → (∀ wdata, i ≠ .hostWrStatus wdata) →
    i ≠ .reset → s.sticky.getLsbD n = true → t.sticky.getLsbD n = true

/-- R321: an event is raised by the operations its row names and by no other. -/
def Obligations.EventsAreRaisedOnlyByTheirOperations : Prop :=
  ∀ (i : Instr) (s t : State), exec i s = .next t →
    (s.sticky.getLsbD 0 = false → t.sticky.getLsbD 0 = true → i = .trcEmit) ∧
    (s.sticky.getLsbD 1 = false → t.sticky.getLsbD 1 = true → unitOf i = some .qdm) ∧
    (s.sticky.getLsbD 2 = false → t.sticky.getLsbD 2 = true → i = .trcEmit) ∧
    (s.sticky.getLsbD 3 = false → t.sticky.getLsbD 3 = true → ∃ wdata, i = .cmdRsvd wdata) ∧
    (s.sticky.getLsbD 4 = false → t.sticky.getLsbD 4 = true →
      ∃ addr wdata, i = .hostRd addr wdata ∨ i = .hostWrOther addr wdata)

/-- R22: "No operation reads a flag to decide its result". Two states that differ in the sticky flags alone give
next states that differ in the sticky flags alone; a host read, which shows the flags, is the exception. -/
def Obligations.NoOperationDependsOnAFlag : Prop :=
  ∀ (i : Instr) (s t t' : State) (flags : BitVec 5), (∀ addr wdata, i ≠ .hostRd addr wdata) →
    exec i s = .next t → exec i { s with sticky := flags } = .next t' →
      t' = { t with sticky := t'.sticky }

/-- R84: what quiescence is when both run bits are 1 and the environment accepts output. -/
def Obligations.QuiescenceMeansDrained : Prop :=
  ∀ s : State, s.ctrl = 3 → s.txsReady = true → s.decReady = true → 1 ≤ s.build.chDepth →
    (quiescent s ↔
      s.symIn = [] ∧ s.rxsIn = [] ∧ s.chChip = [] ∧ s.chDem = [] ∧ s.chDcc = [] ∧
        s.spr.busy = false ∧ s.psh.busy = false ∧ s.trc.need ≠ 0) ∧
    (quiescent s → (statusWord s).getLsbD 8 = false ∧ (statusWord s).getLsbD 9 = false)

/-- R244, R362: a half whose run bit is 0 and whose units have no enabled step is drained, and its busy bit reads 0. -/
def Obligations.StoppedHalfWithNoStepIsDrained : Prop :=
  ∀ s : State, 1 ≤ s.build.chDepth →
    (s.ctrl.getLsbD 0 = false → s.txsReady = true →
      ¬ unitEnabled .spr s → ¬ unitEnabled .psh s →
        s.spr.busy = false ∧ s.psh.busy = false ∧ s.chChip = [] ∧
          (statusWord s).getLsbD 8 = false) ∧
    (s.ctrl.getLsbD 1 = false → s.decReady = true →
      ¬ unitEnabled .dct s → ¬ unitEnabled .trc s →
        s.chDem = [] ∧ s.chDcc = [] ∧ s.trc.need ≠ 0 ∧ (statusWord s).getLsbD 9 = false)

/-- R130, R134: one symbol gives its 32 chips, in order, and SPR is ready for the next. First where CH_CHIP has room for
all of them; then, in every build, where PSH takes each chip before the next is sent, with the 128 samples that come out
(R156); then for one symbol and turns of SPR and PSH in any order, where PSH may be in the middle of a chip at the end:
the chips sent so far, 0 to 32 of them, are those PSH has taken and those in CH_CHIP. -/
def Obligations.SymbolGivesItsThirtyTwoChips : Prop :=
  ∀ (s : State) (sym : Sym) (rest : List Sym), s.spr.busy = false → s.ctrl.getLsbD 0 = true →
    s.symIn = sym :: rest →
      (s.chChip.length + 32 ≤ s.build.chDepth →
        runUnits (List.replicate 33 .spr) s =
          .next { s with
            symIn := rest
            spr := { busy := false, sym := sym, k := 0 }
            chChip := s.chChip ++ chipTokens s.build sym }) ∧
      (1 ≤ s.build.chDepth → s.chChip = [] → s.psh.busy = false → s.txsReady = true →
        runUnits
            (.spr :: (List.replicate 32 [.spr, .psh, .psh, .psh, .psh, .psh]).flatten) s =
          .next { s with
            symIn := rest
            spr := { busy := false, sym := sym, k := 0 }
            psh := { busy := false, hold := chip s.build sym 31, p := 0 }
            txsOut := s.txsOut ++ (chipTokens s.build sym).flatMap (chipSamples s.build) }) ∧
      (rest = [] → s.psh.busy = false →
        ∀ us : List Unit5, (∀ u ∈ us, u = .spr ∨ u = .psh) →
          ∃ (t : State) (sent : Nat) (taken : List CplxWord), runUnits us s = .next t ∧
            sent ≤ 32 ∧
            s.chChip ++ (chipTokens s.build sym).take sent = taken ++ t.chChip ∧
            (if t.symIn = [] then
              t.spr = { busy := decide (sent < 32), sym := sym, k := BitVec.ofNat 5 sent }
             else t.symIn = [sym] ∧ t.spr = s.spr ∧ sent = 0) ∧
            t.txsOut = s.txsOut ++ (taken.flatMap (chipSamples s.build)).take
              (4 * taken.length - if t.psh.busy then 4 - t.psh.p.toNat else 0))

/-- R154, R156, R157: one chip gives its four weighted samples, the first zero, and PSH is ready for the next. -/
def Obligations.ChipGivesItsFourSamples : Prop :=
  ∀ (s : State) (w : CplxWord) (rest : List CplxWord), s.psh.busy = false → s.txsReady = true →
    s.chChip = w :: rest → s.build.pshW = weightTable →
      runUnits (List.replicate 5 .psh) s =
        .next { s with
          chChip := rest
          psh := { busy := false, hold := unpackCplx w, p := 0 }
          txsOut := s.txsOut ++
            [0, tokenOf (shape s.build (unpackCplx w) 1), w,
              tokenOf (shape s.build (unpackCplx w) 3)] }

/-- R211, R218: the first eight steps of TRC fill the window, oldest sample first, and an output is then due. First where
the eight samples wait in CH_DCC; then whatever happens between the steps of TRC, as long as it leaves the registers of TRC
alone; then, in every build, where QDM and DCT make each sample before TRC takes it. -/
def Obligations.EightShiftsFillTheWindow : Prop :=
  (∀ (s : State) (xs : Vector Dcc 8) (rest : List Dcc), s.chDcc = xs.toList ++ rest →
    s.trc.need = 8 →
      runUnits (List.replicate 8 .trc) s =
        .next { s with chDcc := rest, trc := { s.trc with win := xs, need := 0 } }) ∧
  (∀ (xs : Vector Dcc 8) (before after : Fin 8 → State), (before 0).trc.need = 8 →
    (∀ i, (before i).chDcc.head? = some xs[i]) →
    (∀ i, unitStep .trc (before i) = .next (after i)) →
    (∀ i : Fin 7, (before i.succ).trc = (after i.castSucc).trc) →
      (after 7).trc = { (before 0).trc with win := xs, need := 0 }) ∧
  (∀ (s : State) (ws : Vector CplxWord 8) (rest : List CplxWord), s.rxsIn = ws.toList ++ rest →
    s.ctrl.getLsbD 1 = true → s.chDem = [] → s.chDcc = [] → s.trc.need = 8 →
    1 ≤ s.build.chDepth →
      ∃ (est : Est) (flags : BitVec 5) (win : Vector Dcc 8),
        win.toList = dccStream s.build s.dctAlpha s.qdmPrev s.dctEst ws.toList ∧
        runUnits (List.replicate 8 [.qdm, .dct, .trc]).flatten s =
          .next { s with
            rxsIn := rest, qdmPrev := unpackCplx ws[7], dctEst := est, sticky := flags
            trc := { s.trc with win := win, need := 0 } })

/-! ## The numbers -/

/-- R151: with the weights of R31 no part grows, so PSH has no overflow case. -/
def Obligations.ShapingNeverGrowsAPart : Prop :=
  ∀ (x : Samp) (p : BitVec 2),
    let w : Int := (pshWeight Build.default p).toNat
    let v := (x.toInt * w + 8192) / 16384
    |v| ≤ |x.toInt| ∧ (shapePart x (pshWeight Build.default p)).toInt = v

/-- R172: the product is zero exactly when one of the two samples is zero. -/
def Obligations.ProductIsZeroOnlyForAZeroSample : Prop :=
  ∀ x prev : Cplx,
    productZero x prev = true ↔ x = { re := 0, im := 0 } ∨ prev = { re := 0, im := 0 }

/-- R171: the ranges of the two parts of the conjugate product, both ends of the first being reached. -/
def Obligations.ConjugateProductRanges : Prop :=
  (∀ x prev : Cplx, -2147418112 ≤ conjRe x prev ∧ conjRe x prev ≤ 2147483648 ∧
    -2147483648 < conjIm x prev ∧ conjIm x prev < 2147483648) ∧
  (∃ x prev : Cplx, conjRe x prev = 2147483648) ∧
  (∃ x prev : Cplx, conjRe x prev = -2147418112)

/-- R173, the pseudocode written out with floor divisions. -/
def Obligations.ArctangentIsTheCordicOfR173 : Prop :=
  ∀ (b : Build) (y0 x0 : Int),
    let start : Int × Int × Int :=
      if x0 < 0 then (if y0 ≥ 0 then (y0, -x0, 26353589) else (-y0, x0, -26353589))
      else (x0, y0, 0)
    let final := (List.range 16).foldl (fun (v : Int × Int × Int) (i : Nat) =>
        let a : Int := (b.atanRom.toList.getD i 0).toNat
        if v.2.1 ≥ 0 then (v.1 + v.2.1 / 2 ^ i, v.2.1 - v.1 / 2 ^ i, v.2.2 + a)
        else (v.1 - v.2.1 / 2 ^ i, v.2.1 + v.1 / 2 ^ i, v.2.2 - a))
      (start.1 * 2 ^ 15, start.2.1 * 2 ^ 15, start.2.2)
    let out := (final.2.2 + 1024) / 2 ^ 11
    atan2Q b y0 x0 = if out > 25736 then 25736 else if out < -25736 then -25736 else out

/-- R173: for every product of two samples, X and Y stay below 2^48 and Z within its bound through all the
micro-rotations, so the 50-bit X and Y and the 27-bit Z never overflow. -/
def Obligations.CordicRegistersNeverOverflow : Prop :=
  ∀ (x prev : Cplx) (n : Nat), n ≤ 16 →
    let v := foldHalfPlane (conjIm x prev) (conjRe x prev)
    let r := rotateAll (atanTable.toList.take n) 0 (shl v.1 15, shl v.2.1 15, v.2.2)
    |r.1| < 2 ^ 48 ∧ |r.2.1| < 2 ^ 48 ∧ |r.2.2| ≤ 55600574

/-- R174: the fixed points to check. -/
def Obligations.ArctangentFixedPoints : Prop :=
  ([(0, 1, 0), (1, 0, 12868), (0, -1, 25736), (-1, 0, -12868), (1, 1, 6434), (1, -1, 19302),
    (-1, 1, -6434), (-1, -1, -19302), (3, 4, 5272), (-3, -4, -20464), (1, 1000, 8),
    (-1, -2147483648, -25736), (1, -2147483648, 25736)] : List (Int × Int × Int)).all
    (fun q => atan2Q Build.default q.1 q.2.1 == q.2.2) = true

/-- R193: the new estimate lies between the old one and the input, and no register overflows. -/
def Obligations.EstimateStaysBetweenOldAndInput : Prop :=
  ∀ (alpha : Gain) (est : Est) (x : Ang),
    let target := x.toInt * 2 ^ 24
    let e := trackedEstimate alpha est x
    min est.toInt target ≤ e ∧ e ≤ max est.toInt target ∧ (BitVec.ofInt 40 e).toInt = e ∧
      -65535 ≤ dcCorrected alpha est x ∧ dcCorrected alpha est x ≤ 65535

/-- R208: eight equal samples are reproduced, the first and last rows pick `win[3]` and `win[4]`, and the sums stay in
their range. -/
def Obligations.InterpolatorIsExactOnConstants : Prop :=
  ∀ (win : Vector Dcc 8) (mu : Gain),
    ((∀ x ∈ win.toList, x = win[3]) → interp Build.default win mu = win[3].toInt) ∧
    (mu.toNat < 2 ^ 18 → interp Build.default win mu = win[3].toInt) ∧
    (2 ^ 24 - 2 ^ 18 ≤ mu.toNat → interp Build.default win mu = win[4].toInt) ∧
    |tapSum win Build.default.irom[fracIndex mu]| ≤ 1716781056 ∧
    |interpRaw Build.default win mu| ≤ 104784

/-- R214: no register of TRC.EMIT overflows, whatever the state. -/
def Obligations.LoopUpdateNeverOverflows : Prop :=
  ∀ s : State,
    (0 ≤ emitPosition s ∧ emitPosition s / 2 ^ 24 ≤ 272 ∧
      ((BitVec.ofInt 9 (shr (emitPosition s) 24)).toNat : Int) = emitPosition s / 2 ^ 24) ∧
    ((BitVec.ofInt 32 (emitPeriod s)).toNat : Int) = emitPeriod s ∧
    (BitVec.ofInt 17 (emitY s)).toInt = emitY s ∧
    (BitVec.ofInt 18 (emitError s)).toInt = emitError s

/-- R213, and the degenerate settings of R212 and R222: after TRC.EMIT the period is within `MID - lim` and
`MID + lim`, it is MID where RLIM is 0, and it is 0 where MID is 0. -/
def Obligations.PeriodStaysInTheConfiguredRange : Prop :=
  ∀ s t : State, s.trc.need = 0 → s.decReady = true → exec .trcEmit s = .next t →
    let mid := s.trcOmegaMid.toNat
    let lim := mid * s.trcOmegaRlim.toNat / 2 ^ 24
    mid - lim ≤ t.trc.omega.toNat ∧ t.trc.omega.toNat ≤ mid + lim ∧
      (s.trcOmegaRlim = 0 → t.trc.omega.toNat = mid) ∧
      (s.trcOmegaMid = 0 → t.trc.omega = 0)

/-! ## The blocks around the core -/

/-- R281 to R284: the frame of a payload reaches SYM_IN as two symbols a byte, the low nibble first. -/
def Obligations.FrameIsSentLowNibbleFirst : Prop :=
  ∀ (p : FrameParams) (payload : List Byte), payload.length ≤ 255 → payload.length ≤ p.maxFrame →
    ∃ symbols : List Sym, frameSymbols p payload = some symbols ∧
      symbols.map BitVec.toNat =
        (p.preamble ++ (List.finRange 4).map (fun i =>
            BitVec.ofNat 8 (p.accessCode.toNat / 256 ^ (p.codeOrder i).val)) ++
          [BitVec.ofNat 8 payload.length] ++ payload).flatMap
          (fun b => [b.toNat % 16, b.toNat / 16]) ∧
      symbols.length = 2 * (p.preamble.length + 4 + 1 + payload.length)

/-- R289, R291: after a match, a length field and that many bytes of payload give exactly one message, the length 0
giving the empty frame, and a length above MAX_FRAME gives none; PacketSynchronizer is then in SEARCHING. It rests on
readings that are the model's choice: that the hard bit of one decision is one bit of the frame, eight bits to a byte
(log 14), that the window takes every bit in every state and that the first bit after the match is the first of the length
field (log 12), and the form of the CRC (log 15). -/
def Obligations.PacketSynchronizerReadsOneFrame : Prop :=
  ∀ (p : FrameParams) (k : PacketSink) (header body : List DecWord) (n : Nat),
    k.phase = .synced → k.acc = [] → header.length = 8 →
    (byteOfBits p (header.map (·.getLsbD 17))).toNat = n →
      (n ≤ p.maxFrame → body.length = 8 * n →
        k.receiveTokens p (header ++ body) =
          ({ phase := .searching
             window := ((header ++ body).map (·.getLsbD 17)).foldl shiftBit k.window
             acc := [], length := 0, crc := 0 },
            [let payload := groupBytes p n (body.map (·.getLsbD 17))
             let afterHeader := (header.map (·.getLsbD 17)).foldl (crcLengthBit p) k.crc
             let remainder := (body.map (·.getLsbD 17)).zipIdx.foldl
               (fun r b => crcPayloadBit p n b.2 r b.1) afterHeader
             if n = 0 ∨ accepts p remainder payload = true then .frame payload
             else .integrityFailure])) ∧
      (p.maxFrame < n →
        k.receiveTokens p header =
          ({ phase := .searching
             window := (header.map (·.getLsbD 17)).foldl shiftBit k.window
             acc := [], length := 0, crc := 0 },
            []))
end

