-- ==== Sys2Proof/Laws/Primitives.lean ====
section
/-! SUPPORT. What the primitives of 00_scope.md R16 and the flag operations do. -/

namespace Sys2Proof.Machine

/-- `>>` is the floor of the division by a power of two. -/
theorem shr_eq_div (a : Int) (n : Nat) : shr a n = a / ((2 ^ n : Nat) : Int) :=
  Int.shiftRight_eq_div_pow a n

theorem shr_11 (a : Int) : shr a 11 = a / 2048 := shr_eq_div a 11

theorem shr_13 (a : Int) : shr a 13 = a / 8192 := shr_eq_div a 13

theorem shr_14 (a : Int) : shr a 14 = a / 16384 := shr_eq_div a 14

theorem shr_24 (a : Int) : shr a 24 = a / 16777216 := shr_eq_div a 24

theorem shl_15 (a : Int) : shl a 15 = a * 32768 := rfl

theorem shl_24 (a : Int) : shl a 24 = a * 16777216 := rfl

/-- A clamped value lies between the bounds. -/
theorem clamp_bounds (v lo hi : Int) (h : lo ≤ hi) : lo ≤ clamp v lo hi ∧ clamp v lo hi ≤ hi := by
  unfold clamp
  omega

/-- A value already between the bounds is not changed. -/
theorem clamp_of_mem (v lo hi : Int) (h₁ : lo ≤ v) (h₂ : v ≤ hi) : clamp v lo hi = v := by
  unfold clamp
  omega

theorem sat_17 (v : Int) : sat 17 v = clamp v (-65536) 65535 := rfl

/-- A signed number within the width is what is read back after it is written. -/
theorem toInt_ofInt_of_mem {w : Nat} (v : Int) (h₁ : -((2 ^ w : Nat) : Int) ≤ v)
    (h₂ : v < ((2 ^ w : Nat) : Int)) : (BitVec.ofInt (w + 1) v).toInt = v := by
  have hp : (2 ^ (w + 1) : Nat) = 2 * 2 ^ w := by rw [Nat.pow_succ, Nat.mul_comm]
  rw [BitVec.toInt_ofInt, hp]
  apply Int.bmod_eq_of_le <;> omega

/-- An unsigned number within the width is what is read back after it is written. -/
theorem toNat_ofInt_of_mem {w : Nat} (v : Int) (h₁ : 0 ≤ v) (h₂ : v < ((2 ^ w : Nat) : Int)) :
    ((BitVec.ofInt w v).toNat : Int) = v := by
  rw [BitVec.toNat_ofInt, Int.toNat_of_nonneg (Int.emod_nonneg _ (by positivity))]
  exact Int.emod_eq_of_lt h₁ h₂

/-- Every bit of the flags after an event. -/
theorem setFlag_bit (e : Event) (flags : BitVec 5) (i : Nat) :
    (setFlag e flags).getLsbD i = (flags.getLsbD i || decide (i < 5 ∧ i = eventCode e)) := by
  have h : (BitVec.twoPow 5 (eventCode e)).getLsbD i = decide (i < 5 ∧ i = eventCode e) := by
    rw [BitVec.getLsbD_twoPow, ← Bool.decide_and]
    congr 1
    apply propext
    cases e <;> simp only [eventCode] <;> omega
  rw [setFlag, BitVec.getLsbD_or, h]

/-- Two events of one step are recorded in either order. -/
theorem setFlag_comm (a b : Event) (flags : BitVec 5) :
    setFlag a (setFlag b flags) = setFlag b (setFlag a flags) := by
  simp only [setFlag, BitVec.or_assoc, BitVec.or_comm (BitVec.twoPow 5 (eventCode a))]

theorem setFlagIf_comm (c d : Bool) (a b : Event) (flags : BitVec 5) :
    setFlagIf c a (setFlagIf d b flags) = setFlagIf d b (setFlagIf c a flags) := by
  cases c <;> cases d <;> simp [setFlagIf, setFlag_comm a b]

/-- Every bit of the flags after a host clear. -/
theorem clearFlags_bit (mask flags : BitVec 5) (i : Nat) :
    (clearFlags mask flags).getLsbD i = (flags.getLsbD i && !mask.getLsbD i) := by
  by_cases h : i < 5
  · simp [clearFlags, h]
  · simp [clearFlags, BitVec.getLsbD_of_ge _ _ (Nat.le_of_not_lt h)]

end Sys2Proof.Machine
end

