-- ==== Sys2Proof/Laws/State.lean ====
section
/-! SUPPORT. What every field of State is after each shared update: one lemma per field per update. -/

namespace Sys2Proof.Machine

@[simp] theorem raise_build (e : Event) (s : State) : (raise e s).build = s.build := rfl
@[simp] theorem raise_ctrl (e : Event) (s : State) : (raise e s).ctrl = s.ctrl := rfl
@[simp] theorem raise_sticky (e : Event) (s : State) :
    (raise e s).sticky = setFlag e s.sticky := rfl
@[simp] theorem raise_dctAlpha (e : Event) (s : State) : (raise e s).dctAlpha = s.dctAlpha := rfl
@[simp] theorem raise_trcGainMu (e : Event) (s : State) : (raise e s).trcGainMu = s.trcGainMu := rfl
@[simp] theorem raise_trcGainOmega (e : Event) (s : State) :
    (raise e s).trcGainOmega = s.trcGainOmega := rfl
@[simp] theorem raise_trcOmegaMid (e : Event) (s : State) :
    (raise e s).trcOmegaMid = s.trcOmegaMid := rfl
@[simp] theorem raise_trcOmegaRlim (e : Event) (s : State) :
    (raise e s).trcOmegaRlim = s.trcOmegaRlim := rfl
@[simp] theorem raise_trcMuInit (e : Event) (s : State) : (raise e s).trcMuInit = s.trcMuInit := rfl
@[simp] theorem raise_spr (e : Event) (s : State) : (raise e s).spr = s.spr := rfl
@[simp] theorem raise_psh (e : Event) (s : State) : (raise e s).psh = s.psh := rfl
@[simp] theorem raise_qdmPrev (e : Event) (s : State) : (raise e s).qdmPrev = s.qdmPrev := rfl
@[simp] theorem raise_dctEst (e : Event) (s : State) : (raise e s).dctEst = s.dctEst := rfl
@[simp] theorem raise_trc (e : Event) (s : State) : (raise e s).trc = s.trc := rfl
@[simp] theorem raise_chChip (e : Event) (s : State) : (raise e s).chChip = s.chChip := rfl
@[simp] theorem raise_chDem (e : Event) (s : State) : (raise e s).chDem = s.chDem := rfl
@[simp] theorem raise_chDcc (e : Event) (s : State) : (raise e s).chDcc = s.chDcc := rfl
@[simp] theorem raise_hRdata (e : Event) (s : State) : (raise e s).hRdata = s.hRdata := rfl
@[simp] theorem raise_symIn (e : Event) (s : State) : (raise e s).symIn = s.symIn := rfl
@[simp] theorem raise_rxsIn (e : Event) (s : State) : (raise e s).rxsIn = s.rxsIn := rfl
@[simp] theorem raise_txsOut (e : Event) (s : State) : (raise e s).txsOut = s.txsOut := rfl
@[simp] theorem raise_decOut (e : Event) (s : State) : (raise e s).decOut = s.decOut := rfl
@[simp] theorem raise_txsReady (e : Event) (s : State) : (raise e s).txsReady = s.txsReady := rfl
@[simp] theorem raise_decReady (e : Event) (s : State) : (raise e s).decReady = s.decReady := rfl
@[simp] theorem raise_agenda (e : Event) (s : State) : (raise e s).agenda = s.agenda := rfl
@[simp] theorem raise_freeTurns (e : Event) (s : State) : (raise e s).freeTurns = s.freeTurns := rfl

@[simp] theorem restartTx_build (s : State) : (restartTx s).build = s.build := rfl
@[simp] theorem restartTx_ctrl (s : State) : (restartTx s).ctrl = s.ctrl := rfl
@[simp] theorem restartTx_sticky (s : State) : (restartTx s).sticky = s.sticky := rfl
@[simp] theorem restartTx_dctAlpha (s : State) : (restartTx s).dctAlpha = s.dctAlpha := rfl
@[simp] theorem restartTx_trcGainMu (s : State) : (restartTx s).trcGainMu = s.trcGainMu := rfl
@[simp] theorem restartTx_trcGainOmega (s : State) :
    (restartTx s).trcGainOmega = s.trcGainOmega := rfl
@[simp] theorem restartTx_trcOmegaMid (s : State) : (restartTx s).trcOmegaMid = s.trcOmegaMid := rfl
@[simp] theorem restartTx_trcOmegaRlim (s : State) :
    (restartTx s).trcOmegaRlim = s.trcOmegaRlim := rfl
@[simp] theorem restartTx_trcMuInit (s : State) : (restartTx s).trcMuInit = s.trcMuInit := rfl
@[simp] theorem restartTx_spr (s : State) :
    (restartTx s).spr = { busy := false, sym := 0, k := 0 } := rfl
@[simp] theorem restartTx_psh (s : State) :
    (restartTx s).psh = { busy := false, hold := { re := 0, im := 0 }, p := 0 } := rfl
@[simp] theorem restartTx_qdmPrev (s : State) : (restartTx s).qdmPrev = s.qdmPrev := rfl
@[simp] theorem restartTx_dctEst (s : State) : (restartTx s).dctEst = s.dctEst := rfl
@[simp] theorem restartTx_trc (s : State) : (restartTx s).trc = s.trc := rfl
@[simp] theorem restartTx_chChip (s : State) : (restartTx s).chChip = [] := rfl
@[simp] theorem restartTx_chDem (s : State) : (restartTx s).chDem = s.chDem := rfl
@[simp] theorem restartTx_chDcc (s : State) : (restartTx s).chDcc = s.chDcc := rfl
@[simp] theorem restartTx_hRdata (s : State) : (restartTx s).hRdata = s.hRdata := rfl
@[simp] theorem restartTx_symIn (s : State) : (restartTx s).symIn = s.symIn := rfl
@[simp] theorem restartTx_rxsIn (s : State) : (restartTx s).rxsIn = s.rxsIn := rfl
@[simp] theorem restartTx_txsOut (s : State) : (restartTx s).txsOut = s.txsOut := rfl
@[simp] theorem restartTx_decOut (s : State) : (restartTx s).decOut = s.decOut := rfl
@[simp] theorem restartTx_txsReady (s : State) : (restartTx s).txsReady = s.txsReady := rfl
@[simp] theorem restartTx_decReady (s : State) : (restartTx s).decReady = s.decReady := rfl
@[simp] theorem restartTx_agenda (s : State) : (restartTx s).agenda = s.agenda := rfl
@[simp] theorem restartTx_freeTurns (s : State) : (restartTx s).freeTurns = s.freeTurns := rfl

@[simp] theorem restartRx_build (s : State) : (restartRx s).build = s.build := rfl
@[simp] theorem restartRx_ctrl (s : State) : (restartRx s).ctrl = s.ctrl := rfl
@[simp] theorem restartRx_sticky (s : State) : (restartRx s).sticky = s.sticky := rfl
@[simp] theorem restartRx_dctAlpha (s : State) : (restartRx s).dctAlpha = s.dctAlpha := rfl
@[simp] theorem restartRx_trcGainMu (s : State) : (restartRx s).trcGainMu = s.trcGainMu := rfl
@[simp] theorem restartRx_trcGainOmega (s : State) :
    (restartRx s).trcGainOmega = s.trcGainOmega := rfl
@[simp] theorem restartRx_trcOmegaMid (s : State) : (restartRx s).trcOmegaMid = s.trcOmegaMid := rfl
@[simp] theorem restartRx_trcOmegaRlim (s : State) :
    (restartRx s).trcOmegaRlim = s.trcOmegaRlim := rfl
@[simp] theorem restartRx_trcMuInit (s : State) : (restartRx s).trcMuInit = s.trcMuInit := rfl
@[simp] theorem restartRx_spr (s : State) : (restartRx s).spr = s.spr := rfl
@[simp] theorem restartRx_psh (s : State) : (restartRx s).psh = s.psh := rfl
@[simp] theorem restartRx_qdmPrev (s : State) : (restartRx s).qdmPrev = { re := 0, im := 0 } := rfl
@[simp] theorem restartRx_dctEst (s : State) : (restartRx s).dctEst = 0 := rfl
@[simp] theorem restartRx_trc (s : State) : (restartRx s).trc = trcAtStart s := rfl
@[simp] theorem restartRx_chChip (s : State) : (restartRx s).chChip = s.chChip := rfl
@[simp] theorem restartRx_chDem (s : State) : (restartRx s).chDem = [] := rfl
@[simp] theorem restartRx_chDcc (s : State) : (restartRx s).chDcc = [] := rfl
@[simp] theorem restartRx_hRdata (s : State) : (restartRx s).hRdata = s.hRdata := rfl
@[simp] theorem restartRx_symIn (s : State) : (restartRx s).symIn = s.symIn := rfl
@[simp] theorem restartRx_rxsIn (s : State) : (restartRx s).rxsIn = s.rxsIn := rfl
@[simp] theorem restartRx_txsOut (s : State) : (restartRx s).txsOut = s.txsOut := rfl
@[simp] theorem restartRx_decOut (s : State) : (restartRx s).decOut = s.decOut := rfl
@[simp] theorem restartRx_txsReady (s : State) : (restartRx s).txsReady = s.txsReady := rfl
@[simp] theorem restartRx_decReady (s : State) : (restartRx s).decReady = s.decReady := rfl
@[simp] theorem restartRx_agenda (s : State) : (restartRx s).agenda = s.agenda := rfl
@[simp] theorem restartRx_freeTurns (s : State) : (restartRx s).freeTurns = s.freeTurns := rfl

@[simp] theorem configDefaults_build (s : State) : (configDefaults s).build = s.build := rfl
@[simp] theorem configDefaults_ctrl (s : State) : (configDefaults s).ctrl = ctrlDefault := rfl
@[simp] theorem configDefaults_sticky (s : State) : (configDefaults s).sticky = 0 := rfl
@[simp] theorem configDefaults_dctAlpha (s : State) :
    (configDefaults s).dctAlpha = dctAlphaDefault := rfl
@[simp] theorem configDefaults_trcGainMu (s : State) :
    (configDefaults s).trcGainMu = trcGainMuDefault := rfl
@[simp] theorem configDefaults_trcGainOmega (s : State) :
    (configDefaults s).trcGainOmega = trcGainOmegaDefault := rfl
@[simp] theorem configDefaults_trcOmegaMid (s : State) :
    (configDefaults s).trcOmegaMid = trcOmegaMidDefault := rfl
@[simp] theorem configDefaults_trcOmegaRlim (s : State) :
    (configDefaults s).trcOmegaRlim = trcOmegaRlimDefault := rfl
@[simp] theorem configDefaults_trcMuInit (s : State) :
    (configDefaults s).trcMuInit = trcMuInitDefault := rfl
@[simp] theorem configDefaults_spr (s : State) : (configDefaults s).spr = s.spr := rfl
@[simp] theorem configDefaults_psh (s : State) : (configDefaults s).psh = s.psh := rfl
@[simp] theorem configDefaults_qdmPrev (s : State) : (configDefaults s).qdmPrev = s.qdmPrev := rfl
@[simp] theorem configDefaults_dctEst (s : State) : (configDefaults s).dctEst = s.dctEst := rfl
@[simp] theorem configDefaults_trc (s : State) : (configDefaults s).trc = s.trc := rfl
@[simp] theorem configDefaults_chChip (s : State) : (configDefaults s).chChip = s.chChip := rfl
@[simp] theorem configDefaults_chDem (s : State) : (configDefaults s).chDem = s.chDem := rfl
@[simp] theorem configDefaults_chDcc (s : State) : (configDefaults s).chDcc = s.chDcc := rfl
@[simp] theorem configDefaults_hRdata (s : State) : (configDefaults s).hRdata = s.hRdata := rfl
@[simp] theorem configDefaults_symIn (s : State) : (configDefaults s).symIn = s.symIn := rfl
@[simp] theorem configDefaults_rxsIn (s : State) : (configDefaults s).rxsIn = s.rxsIn := rfl
@[simp] theorem configDefaults_txsOut (s : State) : (configDefaults s).txsOut = s.txsOut := rfl
@[simp] theorem configDefaults_decOut (s : State) : (configDefaults s).decOut = s.decOut := rfl
@[simp] theorem configDefaults_txsReady (s : State) :
    (configDefaults s).txsReady = s.txsReady := rfl
@[simp] theorem configDefaults_decReady (s : State) :
    (configDefaults s).decReady = s.decReady := rfl
@[simp] theorem configDefaults_agenda (s : State) : (configDefaults s).agenda = s.agenda := rfl
@[simp] theorem configDefaults_freeTurns (s : State) :
    (configDefaults s).freeTurns = s.freeTurns := rfl

end Sys2Proof.Machine
end

