-- ==== Sys2Proof/Laws/Ops.lean ====
section
/-! SUPPORT. What the shared operations can do, once each: channels, the host register space, the turn, the fetch,
and the step of a turn. -/

namespace Sys2Proof.Machine

/-- A channel is not full exactly when it holds fewer tokens than its capacity. -/
theorem full_eq_false_iff {α : Type} (s : State) (ch : List α) :
    full s ch = false ↔ ch.length < s.build.chDepth := by
  simp [full]

@[simp] theorem push_length {α : Type} (ch : List α) (v : α) :
    (push ch v).length = ch.length + 1 := by
  simp [push]

@[simp] theorem mem_push {α : Type} (ch : List α) (v x : α) : x ∈ push ch v ↔ x ∈ ch ∨ x = v := by
  simp [push]

@[simp] theorem pop_cons {α : Type} (v : α) (ch : List α) : pop (v :: ch) = ch := rfl

theorem mem_of_mem_pop {α : Type} {ch : List α} {x : α} (h : x ∈ pop ch) : x ∈ ch :=
  List.mem_of_mem_tail h

theorem pop_length_le {α : Type} (ch : List α) : (pop ch).length ≤ ch.length := by
  simp [pop]

/-- Popping and pushing commute on a channel that holds a token. -/
theorem pop_push {α : Type} (ch : List α) (v : α) (h : ch ≠ []) :
    pop (push ch v) = push (pop ch) v := by
  cases ch with
  | nil => exact absurd rfl h
  | cons a as => rfl

/-- Pushing leaves the oldest token of a channel that holds one. -/
theorem head?_push {α : Type} (ch : List α) (v : α) (h : ch ≠ []) : (push ch v).head? = ch.head? := by
  cases ch with
  | nil => exact absurd rfl h
  | cons a as => rfl

theorem takeTurn_cons (s : State) (t : Turn) (rest : List Turn) (h : s.agenda = t :: rest) :
    takeTurn s = (t, { s with agenda := rest }) := by
  simp [takeTurn, h]

theorem takeTurn_nil (s : State) (h : s.agenda = []) :
    takeTurn s = (Config.freeTurn s.freeTurns, { s with freeTurns := s.freeTurns + 1 }) := by
  simp [takeTurn, h]

/-- Taking a turn changes the agenda and the counter of free turns and nothing else. -/
theorem takeTurn_frame (s : State) :
    (takeTurn s).2 = { s with
      agenda := (takeTurn s).2.agenda, freeTurns := (takeTurn s).2.freeTurns } := by
  cases h : s.agenda with
  | nil => rw [takeTurn_nil s h]
  | cons t rest => rw [takeTurn_cons s t rest h]

/-- Every word an agent fetches decodes to an operation. -/
theorem fetch_decodes (t : Turn) (s : State) (key : Key) (h : fetch t s = some key) :
    ∃ i, decode key = .ok i := by
  have busyWord : ∀ {w : Nat} (x : BitVec w), (BitVec.ofBool true ++ x).getLsbD w = true := by
    intro w x
    simp [BitVec.getLsbD_append]
  cases t with
  | unit u =>
    cases u with
    | spr =>
      simp only [fetch, unitKey] at h
      split at h
      · next hb =>
        cases h
        exact ⟨_, by simp only [decode, sprWord, hb]; exact if_pos (busyWord _)⟩
      · obtain ⟨x, -, rfl⟩ := Option.map_eq_some_iff.mp h
        exact ⟨_, rfl⟩
    | psh =>
      simp only [fetch, unitKey] at h
      split at h
      · next hb =>
        cases h
        exact ⟨_, by simp only [decode, pshWord, hb]; exact if_pos (busyWord _)⟩
      · obtain ⟨x, -, rfl⟩ := Option.map_eq_some_iff.mp h
        exact ⟨_, rfl⟩
    | qdm =>
      obtain ⟨x, -, rfl⟩ := Option.map_eq_some_iff.mp h
      exact ⟨_, rfl⟩
    | dct =>
      obtain ⟨x, -, rfl⟩ := Option.map_eq_some_iff.mp h
      exact ⟨_, rfl⟩
    | trc =>
      simp only [fetch, unitKey] at h
      split at h
      · next hn =>
        cases h
        exact ⟨.trcEmit, by simp [decode, trcWord, hn]⟩
      · obtain ⟨x, -, rfl⟩ := Option.map_eq_some_iff.mp h
        exact ⟨_, rfl⟩
  | host w => cases h; exact ⟨_, rfl⟩
  | rst => cases h; exact ⟨_, rfl⟩
  | offerSym _ => cases h
  | offerRxs _ => cases h
  | txsReady _ => cases h
  | decReady _ => cases h

/-- The step of a turn is the environment's action, or the meaning of the operation its word selects. -/
theorem stepTurn_cases (t : Turn) (s : State) :
    (fetch t s = none ∧ stepTurn t s = .next (environment t s)) ∨
      ∃ key i, fetch t s = some key ∧ decode key = .ok i ∧ stepTurn t s = exec i s := by
  cases h : fetch t s with
  | none => exact .inl ⟨rfl, by simp [stepTurn, h]⟩
  | some key =>
    obtain ⟨i, hi⟩ := fetch_decodes t s key h
    exact .inr ⟨key, i, rfl, hi, by simp [stepTurn, h, hi]⟩

/-- A turn of the environment changes its side of the ports and nothing else. -/
theorem environment_frame (t : Turn) (s : State) :
    environment t s = { s with
      symIn := (environment t s).symIn, rxsIn := (environment t s).rxsIn
      txsReady := (environment t s).txsReady, decReady := (environment t s).decReady } := by
  cases t <;> rfl

end Sys2Proof.Machine
end

