-- ==== Sys2Proof/Laws/Environment.lean ====
section
/-! SUPPORT. What the blocks beside the core can do: the fields of a decision token, the bytes of a frame,
PacketSynchronizer one bit at a time, and the turn of a session. -/

namespace Sys2Proof.Machine

/-- A bit of a decision token, from its fields. -/
theorem packDecision_bit (hard : Bool) (soft : Dcc) (i : Nat) :
    (packDecision hard soft).getLsbD i =
      if i < 17 then soft.getLsbD i else (BitVec.ofBool hard).getLsbD (i - 17) :=
  (BitVec.getLsbD_append (x := BitVec.ofBool hard) (y := soft)).trans
    (by cases h : decide (i < 17) <;> simp_all)

@[simp] theorem decisionHard_packDecision (hard : Bool) (soft : Dcc) :
    decisionHard (packDecision hard soft) = hard := by
  rw [decisionHard, packDecision_bit]
  simp

@[simp] theorem decisionSoft_packDecision (hard : Bool) (soft : Dcc) :
    decisionSoft (packDecision hard soft) = soft.toInt := by
  unfold decisionSoft
  congr 1
  apply BitVec.eq_of_getLsbD_eq
  intro i hi
  rw [BitVec.getLsbD_extractLsb', Nat.zero_add, packDecision_bit]
  simp [hi]

@[simp] theorem codeBytes_length (p : FrameParams) : (codeBytes p).length = 4 := by
  simp [codeBytes]

@[simp] theorem groupBytes_length (p : FrameParams) (n : Nat) (bits : List Bool) :
    (groupBytes p n bits).length = n := by
  induction n generalizing bits with
  | zero => rfl
  | succ n ih => simp [groupBytes, ih]

@[simp] theorem PacketSink.search_window (k : PacketSink) : k.search.window = k.window := rfl

@[simp] theorem PacketSink.search_phase (k : PacketSink) : k.search.phase = .searching := rfl

/-- A bit of the length field goes on reading it, or ends it in one of its three ways. -/
theorem readLengthBit_cases (p : FrameParams) (bit : Bool) (k : PacketSink) :
    (k.acc.length + 1 < 8 ∧ readLengthBit p bit k =
      ({ k with
        phase := .readingLength, acc := k.acc ++ [bit], crc := crcLengthBit p k.crc bit }, [])) ∨
    (8 ≤ k.acc.length + 1 ∧ p.maxFrame < (byteOfBits p (k.acc ++ [bit])).toNat ∧
      readLengthBit p bit k = (k.search, [])) ∨
    (8 ≤ k.acc.length + 1 ∧ (byteOfBits p (k.acc ++ [bit])).toNat = 0 ∧
      readLengthBit p bit k = (k.search, [.frame []])) ∨
    (8 ≤ k.acc.length + 1 ∧ (byteOfBits p (k.acc ++ [bit])).toNat ≤ p.maxFrame ∧
      (byteOfBits p (k.acc ++ [bit])).toNat ≠ 0 ∧
      readLengthBit p bit k =
        ({ k with
          phase := .readingPayload, acc := [], length := (byteOfBits p (k.acc ++ [bit])).toNat
          crc := crcLengthBit p k.crc bit }, [])) := by
  by_cases h8 : k.acc.length + 1 < 8
  · exact .inl ⟨h8, by simp [readLengthBit, h8]⟩
  · have h8' : 8 ≤ k.acc.length + 1 := by omega
    by_cases hm : p.maxFrame < (byteOfBits p (k.acc ++ [bit])).toNat
    · exact .inr (.inl ⟨h8', hm, by simp [readLengthBit, h8, hm]⟩)
    · by_cases h0 : (byteOfBits p (k.acc ++ [bit])).toNat = 0
      · exact .inr (.inr (.inl ⟨h8', h0, by simp [readLengthBit, h8, h0]⟩))
      · exact .inr (.inr (.inr ⟨h8', by omega, h0, by simp [readLengthBit, h8, hm, h0]⟩))

/-- Tokens given in two parts are the tokens given at once. -/
theorem PacketSink.receiveTokens_append (p : FrameParams) (us ws : List DecWord) (k : PacketSink) :
    k.receiveTokens p (us ++ ws) =
      (((k.receiveTokens p us).1.receiveTokens p ws).1,
        (k.receiveTokens p us).2 ++ ((k.receiveTokens p us).1.receiveTokens p ws).2) := by
  induction us generalizing k with
  | nil => rfl
  | cons u us ih => simp [receiveTokens, ih, List.append_assoc]

/-- PacketSynchronizer's window takes every bit, whatever its state. -/
theorem PacketSink.receive_window (p : FrameParams) (bit : Bool) (k : PacketSink) :
    (k.receive p bit).1.window = shiftBit k.window bit := by
  unfold receive readLengthBit readPayloadBit
  cases k.phase <;> dsimp only <;> split_ifs <;> rfl

/-- A turn of a session is the core's step of the turn, with PacketSynchronizer at its start after a restart. -/
theorem Session.turn_cases {p : FrameParams} {t : Turn} {x y : Session} (h : x.turn p t = .next y) :
    stepTurn t x.core = .next y.core ∧
      (restartsSink t = true → y.sink = PacketSink.start) ∧
      (restartsSink t = false →
        y.sink = (x.sink.receiveTokens p (y.core.decOut.drop x.core.decOut.length)).1) ∧
      y.bus = x.bus ++ (x.sink.receiveTokens p (y.core.decOut.drop x.core.decOut.length)).2 := by
  unfold Session.turn at h
  split at h
  · next s hs =>
    cases h
    exact ⟨hs, fun hr => if_pos hr, fun hr => if_neg (by simp [hr]), rfl⟩
  · cases h
  · cases h

end Sys2Proof.Machine
end

