-- ==== Sys2Proof/Laws/Exec.lean ====
section
/-! SUPPORT. What each unit operation can do: it waits where it is not enabled, and else has its one effect. -/

namespace Sys2Proof.Machine

theorem execSprLoad_cases {sym : Sym} {s t : State} (h : execSprLoad sym s = .next t) :
    (SprLoadEnabled sym s ∧
      t = { s with spr := { busy := true, sym := sym, k := 0 }, symIn := pop s.symIn }) ∨
    (¬ SprLoadEnabled sym s ∧ t = s) := by
  unfold execSprLoad at h
  split at h <;> cases h
  · exact .inl ⟨‹_›, rfl⟩
  · exact .inr ⟨‹_›, rfl⟩

theorem execSprEmit_cases {k : BitVec 5} {s t : State} (h : execSprEmit k s = .next t) :
    (SprEmitEnabled k s ∧
      t = { s with
        chChip := push s.chChip (tokenOf (chip s.build s.spr.sym k))
        spr := if k = 31 then { s.spr with k := 0, busy := false } else { s.spr with k := k + 1 } }) ∨
    (¬ SprEmitEnabled k s ∧ t = s) := by
  unfold execSprEmit at h
  split at h <;> cases h
  · exact .inl ⟨‹_›, rfl⟩
  · exact .inr ⟨‹_›, rfl⟩

theorem execPshLoad_cases {im re : Samp} {s t : State} (h : execPshLoad im re s = .next t) :
    (PshLoadEnabled im re s ∧
      t = { s with
        psh := { busy := true, hold := { re := re, im := im }, p := 0 }
        chChip := pop s.chChip }) ∨
    (¬ PshLoadEnabled im re s ∧ t = s) := by
  unfold execPshLoad at h
  split at h <;> cases h
  · exact .inl ⟨‹_›, rfl⟩
  · exact .inr ⟨‹_›, rfl⟩

theorem execPshEmit_cases {p : BitVec 2} {s t : State} (h : execPshEmit p s = .next t) :
    (PshEmitEnabled p s ∧
      t = { s with
        txsOut := push s.txsOut (tokenOf (shape s.build s.psh.hold p))
        psh := if p = 3 then { s.psh with p := 0, busy := false } else { s.psh with p := p + 1 } }) ∨
    (¬ PshEmitEnabled p s ∧ t = s) := by
  unfold execPshEmit at h
  split at h <;> cases h
  · exact .inl ⟨‹_›, rfl⟩
  · exact .inr ⟨‹_›, rfl⟩

theorem execQdmStep_cases {im re : Samp} {s t : State} (h : execQdmStep im re s = .next t) :
    (QdmStepEnabled im re s ∧
      t = { s with
        rxsIn := pop s.rxsIn
        sticky := setFlagIf (productZero { re := re, im := im } s.qdmPrev) .zeroMag s.sticky
        chDem := push s.chDem (demodulate s.build { re := re, im := im } s.qdmPrev)
        qdmPrev := { re := re, im := im } }) ∨
    (¬ QdmStepEnabled im re s ∧ t = s) := by
  unfold execQdmStep at h
  split at h <;> cases h
  · exact .inl ⟨‹_›, rfl⟩
  · exact .inr ⟨‹_›, rfl⟩

theorem execDctStep_cases {ang : Ang} {s t : State} (h : execDctStep ang s = .next t) :
    (DctStepEnabled ang s ∧
      t = { s with
        chDem := pop s.chDem
        dctEst := BitVec.ofInt 40 (trackedEstimate s.dctAlpha s.dctEst ang)
        chDcc := push s.chDcc (BitVec.ofInt 17 (dcCorrected s.dctAlpha s.dctEst ang)) }) ∨
    (¬ DctStepEnabled ang s ∧ t = s) := by
  unfold execDctStep at h
  split at h <;> cases h
  · exact .inl ⟨‹_›, rfl⟩
  · exact .inr ⟨‹_›, rfl⟩

theorem execTrcShift_cases {dcc : Dcc} {s t : State} (h : execTrcShift dcc s = .next t) :
    (TrcShiftEnabled dcc s ∧
      t = { s with
        chDcc := pop s.chDcc
        trc := { s.trc with win := shiftWindow s.trc.win dcc, need := s.trc.need - 1 } }) ∨
    (¬ TrcShiftEnabled dcc s ∧ t = s) := by
  unfold execTrcShift at h
  split at h <;> cases h
  · exact .inl ⟨‹_›, rfl⟩
  · exact .inr ⟨‹_›, rfl⟩

/-- The registers of TRC after TRC.EMIT. -/
theorem execTrcEmit_cases {s t : State} (h : execTrcEmit s = .next t) :
    (TrcEmitEnabled s ∧
      t = { s with
        sticky :=
          setFlagIf (emitDiverges s) .loopDiv (setFlagIf (emitSaturates s) .intSat s.sticky)
        trc :=
          { win := s.trc.win
            need := BitVec.ofInt 9 (shr (emitPosition s) 24)
            mu := BitVec.ofInt 24 (emitPosition s)
            omega := BitVec.ofInt 32 (emitPeriod s)
            yPrev := BitVec.ofInt 17 (emitY s)
            dPrev := slice (emitY s)
            err := BitVec.ofInt 18 (emitError s) }
        decOut :=
          push s.decOut
            (packDecision (hardBit (slice (emitY s))) (BitVec.ofInt 17 (emitY s))) }) ∨
    (¬ TrcEmitEnabled s ∧ t = s) := by
  unfold execTrcEmit at h
  split at h <;> cases h
  · exact .inl ⟨‹_›, rfl⟩
  · exact .inr ⟨‹_›, rfl⟩

/-- A host read returns a mapped register's value, or 0 with BADADDR. -/
theorem execHostRd_cases {addr : HostAddr} {wdata : HostData} {s t : State}
    (h : execHostRd addr wdata s = .next t) :
    (∃ v, hostReg addr s = some v ∧ t = { s with hRdata := v }) ∨
    (hostReg addr s = none ∧ t = raise .badAddr { s with hRdata := 0 }) := by
  unfold execHostRd at h
  split at h <;> cases h
  · exact .inl ⟨_, ‹_›, rfl⟩
  · exact .inr ⟨‹_›, rfl⟩

end Sys2Proof.Machine
end

