-- ==== Sys2Proof/Laws/PerInstr.lean ====
section
/-! SUPPORT. Statements about every constructor of `Instr` as syntax, one lemma each. -/

namespace Sys2Proof.Laws.FormatOfRow

/-- The word that selects an operation has the format its row of the operation table names. -/
def Statement (i : Instr) : Prop := (encode i).format = i.format

theorem sprLoad (sym : Sym) : Statement (.sprLoad sym) := rfl

theorem sprEmit (k : BitVec 5) : Statement (.sprEmit k) := rfl

theorem pshLoad (im re : Samp) : Statement (.pshLoad im re) := rfl

theorem pshEmit (p : BitVec 2) : Statement (.pshEmit p) := rfl

theorem qdmStep (im re : Samp) : Statement (.qdmStep im re) := rfl

theorem dctStep (ang : Ang) : Statement (.dctStep ang) := rfl

theorem trcShift (dcc : Dcc) : Statement (.trcShift dcc) := rfl

theorem trcEmit : Statement .trcEmit := rfl

theorem hostRd (addr : HostAddr) (wdata : HostData) : Statement (.hostRd addr wdata) := rfl

theorem hostWrCtrl (wdata : HostData) : Statement (.hostWrCtrl wdata) := rfl

theorem cmdNop : Statement .cmdNop := rfl

theorem cmdRestartTx : Statement .cmdRestartTx := rfl

theorem cmdRestartRx : Statement .cmdRestartRx := rfl

theorem cmdRestartAll : Statement .cmdRestartAll := rfl

theorem cmdRsvd (wdata : HostData) : Statement (.cmdRsvd wdata) := rfl

theorem hostWrStatus (wdata : HostData) : Statement (.hostWrStatus wdata) := rfl

theorem hostWrDctAlpha (wdata : HostData) : Statement (.hostWrDctAlpha wdata) := rfl

theorem hostWrTrcGainMu (wdata : HostData) : Statement (.hostWrTrcGainMu wdata) := rfl

theorem hostWrTrcGainOmega (wdata : HostData) : Statement (.hostWrTrcGainOmega wdata) := rfl

theorem hostWrTrcOmegaMid (wdata : HostData) : Statement (.hostWrTrcOmegaMid wdata) := rfl

theorem hostWrTrcOmegaRlim (wdata : HostData) : Statement (.hostWrTrcOmegaRlim wdata) := rfl

theorem hostWrTrcMuInit (wdata : HostData) : Statement (.hostWrTrcMuInit wdata) := rfl

theorem hostWrOther (addr : HostAddr) (wdata : HostData) :
    Statement (.hostWrOther addr wdata) := rfl

theorem reset : Statement .reset := rfl

end Sys2Proof.Laws.FormatOfRow
end

