-- ==== Sys2Proof/Laws/Words.lean ====
section
/-! SUPPORT. The fields of complex tokens and of host transactions: packing and taking apart are inverse. -/

namespace Sys2Proof

/-- A bit of a complex token, from its parts. -/
theorem packCplx_bit (im re : Samp) (i : Nat) :
    (packCplx im re).getLsbD i = if i < 16 then re.getLsbD i else im.getLsbD (i - 16) :=
  (BitVec.getLsbD_append (x := im) (y := re)).trans (by cases h : decide (i < 16) <;> simp_all)

/-- A bit of a host transaction, from its fields. -/
theorem packHost_bit (we : Bool) (a : HostAddr) (d : HostData) (i : Nat) :
    (packHost we a d).getLsbD i =
      if i < 32 then d.getLsbD i
      else if i < 40 then a.getLsbD (i - 32) else (BitVec.ofBool we).getLsbD (i - 40) := by
  have h₁ := BitVec.getLsbD_append (x := BitVec.ofBool we) (y := a ++ d) (i := i)
  have h₂ := BitVec.getLsbD_append (x := a) (y := d) (i := i)
  rw [h₂] at h₁
  refine h₁.trans ?_
  by_cases h32 : i < 32
  · simp [h32, show i < 8 + 32 by omega]
  · by_cases h40 : i < 40
    · simp [h32, h40]
    · simp [h32, h40]

@[simp] theorem cplxRe_packCplx (im re : Samp) : cplxRe (packCplx im re) = re := by
  apply BitVec.eq_of_getLsbD_eq
  intro i hi
  simp [cplxRe, packCplx_bit, hi]

@[simp] theorem cplxIm_packCplx (im re : Samp) : cplxIm (packCplx im re) = im := by
  apply BitVec.eq_of_getLsbD_eq
  intro i hi
  simp [cplxIm, packCplx_bit, hi]

theorem packCplx_fields (w : CplxWord) : packCplx (cplxIm w) (cplxRe w) = w := by
  apply BitVec.eq_of_getLsbD_eq
  intro i hi
  rw [packCplx_bit]
  split
  · simp [cplxRe, *]
  · simp [cplxIm, show i - 16 < 16 by omega, show 16 + (i - 16) = i by omega]

@[simp] theorem hostWe_packHost (we : Bool) (a : HostAddr) (d : HostData) :
    hostWe (packHost we a d) = we := by
  unfold hostWe
  rw [packHost_bit]
  simp

@[simp] theorem hostAddrOf_packHost (we : Bool) (a : HostAddr) (d : HostData) :
    hostAddrOf (packHost we a d) = a := by
  apply BitVec.eq_of_getLsbD_eq
  intro i hi
  simp [hostAddrOf, packHost_bit, hi, show 32 + i < 40 by omega]

@[simp] theorem hostDataOf_packHost (we : Bool) (a : HostAddr) (d : HostData) :
    hostDataOf (packHost we a d) = d := by
  apply BitVec.eq_of_getLsbD_eq
  intro i hi
  simp [hostDataOf, packHost_bit, hi]

theorem packHost_fields (w : HostWord) : packHost (hostWe w) (hostAddrOf w) (hostDataOf w) = w := by
  apply BitVec.eq_of_getLsbD_eq
  intro i hi
  rw [packHost_bit]
  split
  · simp [hostDataOf, *]
  · split
    · simp [hostAddrOf, show i - 32 < 8 by omega, show 32 + (i - 32) = i by omega]
    · simp [hostWe, show i = 40 by omega]

/-- The rows whose mask covers the write bit and the address match exactly the writes to that address. -/
theorem addr_mask_iff (w : HostWord) (a : HostAddr) :
    w &&& 0x1FF00000000 = packHost true a 0 ↔ hostWe w = true ∧ hostAddrOf w = a := by
  have key : ∀ (we : Bool) (b : HostAddr) (d : HostData),
      packHost we b d &&& 0x1FF00000000 = packHost we b 0 := by
    intro we b d
    have hm : (0x1FF00000000 : HostWord) = packHost true 0xFF 0 := by decide
    apply BitVec.eq_of_getLsbD_eq
    intro i hi
    rw [hm, BitVec.getLsbD_and, packHost_bit, packHost_bit, packHost_bit]
    split
    · simp
    · split
      · have h8 : i - 32 < 8 := by omega
        have hall : (0xFF : HostAddr) = BitVec.allOnes 8 := by decide
        rw [hall, BitVec.getLsbD_allOnes]
        simp [h8]
      · simp [show i = 40 by omega]
  rw [← packHost_fields w, key]
  constructor
  · intro h
    have h₁ := congrArg hostWe h
    have h₂ := congrArg hostAddrOf h
    simp at h₁ h₂
    simp [h₁, h₂]
  · intro h
    simp at h
    simp [h]

end Sys2Proof
end

