-- ==== Sys2Proof/Tests/Slice0.lean ====
section
/-! SUPPORT. Tests of the model against the spec's own words and vectors (95_test_vectors.md), and for each statement
with hypotheses a state that meets them. -/

open Sys2Proof Sys2Proof.Machine

namespace Sys2Proof.Tests

/-- The step answers a next state that passes the check. -/
def nextIs (o : Host.Outcome State Fault Refusal) (check : State → Bool) : Bool :=
  match o with
  | .next t => check t
  | .fault _ => false
  | .refused _ => false

/-- The state after reset with these registers of TRC and an output due. -/
def trcDue (win : Vector Dcc 8) (mu : Gain) (yPrev : Dcc) (dPrev : Sign) : State :=
  { State.reset with
    trc := { State.reset.trc with win := win, need := 0, mu := mu, yPrev := yPrev, dPrev := dPrev } }

/-! ## Well-formedness: each check refuses an ill-formed term -/

theorem test_wf_refuses_restart_code_as_reserved : (Instr.cmdRsvd 3).wf = false := by decide

theorem test_wf_refuses_writable_address_as_other : (Instr.hostWrOther 0x24 0).wf = false := by decide

theorem test_wf_accepts_the_neighbours :
    (Instr.cmdRsvd 4).wf = true ∧ (Instr.hostWrOther 0x25 0).wf = true := by decide

/-! ## Decoding: words written out from 30_encoding.md R101 to R108 and 45_host_operations.md -/

theorem test_decode_spr_load : decode (.s4 0b1000) = .ok (.sprLoad 8) := by decide

theorem test_decode_spr_emit : decode (.sq6 0b111110) = .ok (.sprEmit 30) := by decide

theorem test_decode_spr_idle : decode (.sq6 0b000101) = .error .needsToken := by decide

theorem test_decode_psh_load :
    decode (.c32 0b11000000000000000000000000000001) = .ok (.pshLoad 0xC000 1) := by decide

theorem test_decode_psh_emit : decode (.pq3 0b101) = .ok (.pshEmit 1) := by decide

theorem test_decode_psh_idle : decode (.pq3 0b011) = .error .needsToken := by decide

theorem test_decode_qdm_step :
    decode (.x32 0b11010010101111110010110101000001) = .ok (.qdmStep 0xD2BF 0x2D41) := by decide

theorem test_decode_dct_step : decode (.a16 0xE6DE) = .ok (.dctStep (-6434)) := by decide

theorem test_decode_trc_shift : decode (.b17 0x1E6DD) = .ok (.trcShift (-6435)) := by decide

theorem test_decode_trc_emit :
    decode (.tq9 0) = .ok .trcEmit ∧ decode (.tq9 1) = .error .needsToken := by decide

theorem test_decode_decision_is_no_input : decode (.d18 0x203E8) = .error .notAnInput := by decide

theorem test_decode_host_rd : decode (.h41 0x03800000005) = .ok (.hostRd 0x38 5) := by decide

theorem test_decode_host_wr_ctrl :
    decode (.h41 0x104FFFFFFFE) = .ok (.hostWrCtrl 0xFFFFFFFE) := by decide

theorem test_decode_commands :
    decode (.h41 0x10800000000) = .ok .cmdNop ∧ decode (.h41 0x10800000001) = .ok .cmdRestartTx ∧
    decode (.h41 0x10800000002) = .ok .cmdRestartRx ∧
    decode (.h41 0x10800000003) = .ok .cmdRestartAll ∧
    decode (.h41 0x10800000007) = .ok (.cmdRsvd 7) := by decide

theorem test_decode_host_wr_status :
    decode (.h41 0x10C0000000A) = .ok (.hostWrStatus 0xA) := by decide

theorem test_decode_configuration_writes :
    decode (.h41 0x11000100000) = .ok (.hostWrDctAlpha 0x00100000) ∧
    decode (.h41 0x114FF080000) = .ok (.hostWrTrcGainMu 0xFF080000) ∧
    decode (.h41 0x11800000EBF) = .ok (.hostWrTrcGainOmega 0xEBF) ∧
    decode (.h41 0x11C03000000) = .ok (.hostWrTrcOmegaMid 0x03000000) ∧
    decode (.h41 0x12000400000) = .ok (.hostWrTrcOmegaRlim 0x00400000) ∧
    decode (.h41 0x12400400000) = .ok (.hostWrTrcMuInit 0x00400000) := by decide

theorem test_decode_host_wr_other :
    decode (.h41 0x10000000005) = .ok (.hostWrOther 0 5) ∧
    decode (.h41 0x10500000003) = .ok (.hostWrOther 0x05 3) := by decide

theorem test_decode_reset : decode .rst = .ok .reset := by decide

theorem test_decode_bytes_little_endian :
    decodeBytes .h41 [0x0A, 0x00, 0x00, 0x00, 0x0C, 0x01] = .ok (.hostWrStatus 0xA) ∧
    decodeBytes .h41 [0x0A, 0x00, 0x00, 0x00, 0x0C, 0x02] = .error .bitsAboveFormat ∧
    decodeBytes .h41 [0x0A] = .error .badLength := by decide

theorem test_table_words :
    decodeTableWord 8 0 = some (.sprLoad 0) ∧ decodeTableWord 8 32 = some (.sprEmit 0) ∧
    decodeTableWord 8 4 = some (.pshEmit 0) ∧ decodeTableWord 16 0 = some .trcEmit ∧
    decodeTableWord 32 0x4000 = some (.pshLoad 0 0x4000) ∧
    decodeTableWord 48 0x10800000001 = some .cmdRestartTx ∧ decodeTableWord 0 0 = some .reset := by
  decide

/-- Each agent's word placed after reset is what the next step runs. -/
theorem test_placed_words_run :
    nextIs (step (State.reset.withFetchWord 8 8)) (fun t => t.spr.busy && t.spr.sym == 8) = true ∧
    nextIs (step (State.reset.withFetchWord 32 0x4000)) (fun t => t.psh.hold.re == 16384) = true ∧
    nextIs (step (State.reset.withFetchWord 17 1)) (fun t => t.trc.win[7] == 1) = true ∧
    nextIs (step (State.reset.withFetchWord 48 0x10400000002)) (fun t => t.ctrl == 2) = true := by
  decide

/-! ## SPR: vectors S1, S5, S9 -/

theorem test_spr_load_S1 :
    nextIs (execSprLoad 5 { State.reset with symIn := [5] })
      (fun t => t.spr == { busy := true, sym := 5, k := 0 } && t.symIn == []) = true := by decide

theorem test_spr_emit_S5 :
    nextIs (execSprEmit 31 { State.reset with spr := { busy := true, sym := 0, k := 31 } })
      (fun t => t.chChip == [0xC0000000] && t.spr == { busy := false, sym := 0, k := 0 }) = true := by
  decide

theorem test_spr_emit_S9 :
    nextIs (execSprEmit 1 { State.reset with spr := { busy := true, sym := 8, k := 1 } })
      (fun t => t.chChip == [0xC0000000] && t.spr.k == 2) = true := by decide

/-- Rows 1 to 7 of the chip table are row 0 rotated by 4 chips a row, rows 8 to 15 are rows 0 to 7 with the odd chips
inverted (10_state.md R30). -/
theorem test_chip_table_structure :
    (∀ s : Sym, s.toNat < 7 →
      chipWord Build.default (s + 1) = (chipWord Build.default s).rotateLeft 4) ∧
    ∀ s : Sym, s.toNat < 8 →
      chipWord Build.default (s + 8) = chipWord Build.default s ^^^ 0xAAAAAAAA := by decide

/-! ## PSH: the example of R152, vectors PS6 and the example of R153 -/

theorem test_psh_load_example :
    nextIs (execPshLoad 0xC000 0 { State.reset with chChip := [0xC0000000] })
      (fun t => t.psh == { busy := true, hold := { re := 0, im := -16384 }, p := 0 } &&
        t.chChip == []) = true := by decide

theorem test_psh_emit_example :
    nextIs (execPshEmit 1 { State.reset with
        psh := { busy := true, hold := { re := 0, im := -16384 }, p := 1 } })
      (fun t => t.txsOut == [0xD2BF0000] && t.psh.p == 2) = true := by decide

theorem test_psh_emit_PS6 :
    nextIs (execPshEmit 3 { State.reset with
        psh := { busy := true, hold := { re := 32767, im := -32768 }, p := 3 } })
      (fun t => t.txsOut == [packCplx (-23170) 23169] && !t.psh.busy) = true := by decide

/-! ## QDM: vectors Q1 and Q8, DCT: vectors DC1 and DC5 -/

theorem test_qdm_step_Q1 :
    nextIs (execQdmStep 0 16384 { State.reset with rxsIn := [0x00004000] })
      (fun t => t.chDem == [0] && t.sticky == 2 && t.qdmPrev == { re := 16384, im := 0 }) = true := by
  decide

theorem test_qdm_step_Q8 :
    nextIs (execQdmStep (-11585) 11585 { State.reset with
        rxsIn := [packCplx (-11585) 11585], qdmPrev := { re := 16384, im := 0 } })
      (fun t => t.chDem == [-6434] && t.sticky == 0) = true := by decide

theorem test_dct_step_DC1 :
    nextIs (execDctStep 6434 { State.reset with chDem := [6434] })
      (fun t => t.chDcc == [6433] && t.dctEst == 17268856 && t.chDem == []) = true := by decide

theorem test_dct_step_DC5 :
    nextIs (execDctStep (-1) { State.reset with chDem := [-1], dctEst := -5368 })
      (fun t => t.chDcc == [0] && t.dctEst == -8052) = true := by decide

/-! ## TRC: the example of R211, vectors T5 and T11 -/

theorem test_trc_shift_example :
    nextIs (execTrcShift 6433 { State.reset with chDcc := [6433] })
      (fun t => t.trc.win[7] == 6433 && t.trc.win[6] == 0 && t.trc.need == 7) = true := by decide

theorem test_trc_emit_T5 :
    nextIs (execTrcEmit { trcDue #v[0, 0, 0, 0, 0, 0, 0, 0] 0x800000 65535 .plus with
        trcGainMu := 0xFFFFFF })
      (fun t => t.trc.need == 0 && t.trc.mu == 0 && t.trc.omega == 33527592 && t.sticky == 1 &&
        t.decOut == [0x20000]) = true := by decide

theorem test_trc_emit_T11 :
    nextIs (execTrcEmit (trcDue #v[5000, 5000, 5000, 5000, 5000, 5000, 5000, 5000] 0x800000 (-3000)
        .minus))
      (fun t => t.trc.need == 2 && t.trc.mu == 8264908 && t.trc.omega == 33553612 &&
        t.trc.err == -2000 && t.trc.yPrev == 5000 && t.trc.dPrev == .plus && t.sticky == 0) = true := by
  decide

theorem test_interpolator_saturates_T4 :
    (interpRaw Build.default #v[-65536, 65535, -65536, 65535, 65535, -65536, 65535, -65536] 0x800000,
      emitSaturates (trcDue #v[-65536, 65535, -65536, 65535, 65535, -65536, 65535, -65536] 0x800000 0
        .plus)) = (104783, true) := by decide

/-! ## HOST: vectors H1, H16, H19, H22, H26, H28, H30, H31 and the read-out formats -/

theorem test_host_rd_window_and_readouts :
    hostReg 0x00 State.reset = some 0x4F515031 ∧ hostReg 0x7C State.reset = some 0x1DEE0693 ∧
    hostReg 0x30 { State.reset with dctEst := -66149 } = some 0xFFFFFEFD ∧
    hostReg 0x34 { State.reset with trc := { State.reset.trc with err := -756 } } =
      some 0xFFFFFD0C := by decide

theorem test_host_rd_unmapped_H19 :
    nextIs (execHostRd 0x80 0 { State.reset with hRdata := 7 })
      (fun t => t.hRdata == 0 && t.sticky == 0x10) = true := by decide

theorem test_host_wr_ctrl_H20 :
    nextIs (execHostWrCtrl 0xFFFFFFFE State.reset) (fun t => t.ctrl == 2) = true := by decide

theorem test_host_wr_status_H30 :
    nextIs (execHostWrStatus 0x0A { State.reset with sticky := 0x1A }) (fun t => t.sticky == 0x10) =
      true := by decide

theorem test_host_wr_status_keeps_busy_H31 :
    nextIs (execHostWrStatus 0xFFFFFFFF { State.reset with
        sticky := 0x10, spr := { busy := true, sym := 0, k := 0 } })
      (fun t => statusWord t == 0x100) = true := by decide

theorem test_configuration_writes :
    nextIs (execHostWrDctAlpha 0x00100000 State.reset) (fun t => t.dctAlpha == 0x100000) = true ∧
    nextIs (execHostWrTrcGainMu 0xFF080000 State.reset) (fun t => t.trcGainMu == 0x80000) = true ∧
    nextIs (execHostWrTrcGainOmega 0xEBF State.reset) (fun t => t.trcGainOmega == 0xEBF) = true ∧
    nextIs (execHostWrTrcOmegaMid 0xFFFFFFFF State.reset)
      (fun t => t.trcOmegaMid == 0x7FFFFFFF && t.trc.omega == 0x02000000) = true ∧
    nextIs (execHostWrTrcOmegaRlim 0x00400000 State.reset)
      (fun t => t.trcOmegaRlim == 0x400000) = true ∧
    nextIs (execHostWrTrcMuInit 0x00400000 State.reset)
      (fun t => t.trcMuInit == 0x400000 && t.trc.mu == 0x800000) = true := by decide

theorem test_host_wr_other_H26 :
    nextIs (execHostWrOther 0x40 0 State.reset)
      (fun t => t.sticky == 0x10 && chipWord t.build 0 == 0x744AC39B) = true := by decide

theorem test_cmd_rsvd_H28 :
    nextIs (execCmdRsvd 7 State.reset) (fun t => t.sticky == 8) = true := by decide

theorem test_cmd_restart_tx :
    nextIs (execCmdRestartTx { State.reset with
        spr := { busy := true, sym := 3, k := 5 }, chChip := [0x4000], symIn := [1], sticky := 2 })
      (fun t => t.spr == { busy := false, sym := 0, k := 0 } && t.chChip == [] && t.symIn == [1] &&
        t.sticky == 2) = true := by decide

/-- The example of R256. -/
theorem test_cmd_restart_rx_example :
    nextIs (execCmdRestartRx { State.reset with
        trcOmegaMid := 0x03000000, trcMuInit := 0x00400000, dctEst := 9, chDcc := [4] })
      (fun t => hostReg 0x28 t == some 0x03000000 && hostReg 0x2C t == some 0x00400000 &&
        t.dctEst == 0 && t.chDcc == []) = true := by decide

/-- Program P6's point: reset after use gives the reset values. -/
theorem test_reset_after_use :
    nextIs (execReset { State.reset with
        ctrl := 2, sticky := 5, trcOmegaMid := 0x7FFFFFFF, trcMuInit := 1, chDem := [1], symIn := [2] })
      (fun t => t.ctrl == 3 && t.sticky == 0 && t.trc.omega == 0x02000000 && t.trc.mu == 0x800000 &&
        t.chDem == [] && t.symIn == [2]) = true := by decide

/-- `BYTE 0x48` reaches SYM_IN as 8 and then 4 (R71 item 5). -/
theorem test_byte_is_low_nibble_first : byteSymbols 0x48 = [8, 4] := by decide

/-- A choice of the environment's OPEN parameters, for the tests: every order as it comes, and a CRC of one bit over
the payload, the parity, which must be even. -/
def someParams : FrameParams :=
  { preamble := [0], accessCode := accessCodeDefault, maxFrame := 127, hammingTol := 0
    codeOrder := Equiv.refl _, bitOrder := Equiv.refl _, newestAt := .bit31
    crc := some { width := 1, polynomial := 1, coversLength := false, covers := fun _ _ => true,
                  passes := fun r _ => r == 0 }
    validate := fun _ => true }

/-- A PacketSynchronizer that has just seen the access code. -/
def syncedSink : PacketSink := { PacketSink.start with phase := .synced }

/-- D18 tokens with these hard bits and the soft value 5. -/
def decisions (bits : List Bool) : List DecWord := bits.map fun b => packDecision b 5

/-- R282 to R284: the frame of the payload 'H'. -/
theorem test_frame_of_one_byte :
    frameSymbols someParams [0x48] = some [0, 0, 7, 10, 0, 0, 0, 0, 0, 0, 1, 0, 8, 4] := by decide

/-- R299: the byte order of the access code is a parameter; here the byte 0xA7 goes last. -/
theorem test_frame_code_order :
    frameSymbols { someParams with codeOrder := Fin.revPerm } [] =
      some [0, 0, 0, 0, 0, 0, 0, 0, 7, 10, 0, 0] := by decide

/-- R284, R289: after a match a length of 0 gives the empty frame at once. -/
theorem test_empty_frame_is_emitted :
    (syncedSink.receiveTokens someParams (decisions (List.replicate 8 false))).2 = [.frame []] := by
  decide

/-- R288: a window one bit short of the access code, then the last bit: the match leads to SYNCED, and a wrong last
bit does not. -/
theorem test_access_code_matches :
    let k := { PacketSink.start with window := 0x72800000 }
    (k.receiveTokens someParams (decisions [false])).1.phase = .synced ∧
      (k.receiveTokens someParams (decisions [true])).1.phase = .searching := by decide +kernel

/-- R291, Scenario 3: a frame with one bit corrupted is reported and not emitted. -/
theorem test_integrity_failure_is_reported :
    let length := [true, false, false, false, false, false, false, false]
    (syncedSink.receiveTokens someParams (decisions (length ++ [true, true] ++ List.replicate 6 false))).2 =
        [.frame [3]] ∧
      syncedSink.receiveTokens someParams (decisions (length ++ [true] ++ List.replicate 7 false)) =
        ({ PacketSink.start with window := 0x8080 }, [.integrityFailure]) := by decide

/-- R106: the fields of a D18 token, here the example -3 with hard bit 0. -/
theorem test_decision_fields :
    decisionSoft 0x1FFFD = -3 ∧ decisionHard 0x1FFFD = false ∧ decisionHard 0x20005 = true ∧
      decisionSoft 0x20005 = 5 := by decide

/-- R287, R292: in a session TRC.EMIT's decision reaches PacketSynchronizer, and RESTART_RX restarts that. -/
theorem test_session :
    let x : Session :=
      { core := { State.reset with trc := { State.reset.trc with need := 0 } }
        sink := { syncedSink with acc := [true] }, bus := [] }
    (match x.turn someParams (.unit .trc) with
      | .next y => y.sink.acc == [true, true] && y.sink.window == 1
      | _ => false) = true ∧
    (match x.turn someParams (.host 0x10800000002) with
      | .next y => y.sink == PacketSink.start && y.core.trc.need == 8
      | _ => false) = true := by decide

/-- R350: `h_ready` is 0 under `rst`, whatever the port would do. -/
theorem test_h_ready_under_reset :
    hReady true true = false ∧ hReady true false = false ∧ hReady false true = true := by decide

end Sys2Proof.Tests
end

