-- ==== Sys2Proof/Tests/Witnesses.lean ====
section
/-! SUPPORT. For each statement with hypotheses, a concrete state and operands that meet them together, clause by
clause where a statement has several. -/

open Sys2Proof Sys2Proof.Machine

namespace Sys2Proof.Tests

theorem witness_SprLoadTakesTheSymbol :
    (∃ s : State, s.symIn = [15] ∧ s.spr.busy = false ∧ s.ctrl.getLsbD 0 = true) ∧
    (∃ s : State, s.symIn = [0, 1] ∧ s.spr.busy = false ∧ s.ctrl.getLsbD 0 = false) :=
  ⟨⟨{ State.reset with symIn := [15] }, rfl, rfl, rfl⟩,
    ⟨{ State.reset with symIn := [0, 1], ctrl := 2 }, rfl, rfl, rfl⟩⟩

theorem witness_SprEmitPushesTheChip :
    (∃ s : State, s.spr.busy = true ∧ s.spr.k = 31 ∧ s.chChip.length < s.build.chDepth) ∧
    (∃ s : State, s.spr.busy = true ∧ s.spr.k = 0 ∧ s.chChip.length < s.build.chDepth) ∧
    (∃ s : State, s.spr.busy = true ∧ s.spr.k = 7 ∧ s.build.chDepth ≤ s.chChip.length) :=
  ⟨⟨{ State.reset with spr := ⟨true, 3, 31⟩, chChip := [0x4000] }, rfl, rfl, by decide⟩,
    ⟨{ State.reset with spr := ⟨true, 3, 0⟩ }, rfl, rfl, by decide⟩,
    ⟨{ State.reset with spr := ⟨true, 3, 7⟩, chChip := [0x4000, 0xC000] }, rfl, rfl, by decide⟩⟩

theorem witness_PshLoadTakesTheChip :
    ∃ s : State, s.chChip = [0xC0000000] ∧ s.psh.busy = false :=
  ⟨{ State.reset with chChip := [0xC0000000] }, rfl, rfl⟩

theorem witness_PshEmitPushesTheWeightedSample :
    (∃ s : State, s.psh.busy = true ∧ s.psh.p = 3 ∧ s.txsReady = true) ∧
    (∃ s : State, s.psh.busy = true ∧ s.psh.p = 0 ∧ s.txsReady = false) :=
  ⟨⟨{ State.reset with psh := ⟨true, ⟨-32768, 32767⟩, 3⟩ }, rfl, rfl, rfl⟩,
    ⟨{ State.reset with psh := ⟨true, ⟨1, -1⟩, 0⟩, txsReady := false }, rfl, rfl, rfl⟩⟩

theorem witness_QdmStepPushesThePhaseDifference :
    (∃ s : State, s.rxsIn = [0x4000] ∧ s.ctrl.getLsbD 1 = true ∧
      s.chDem.length < s.build.chDepth) ∧
    (∃ s : State, s.rxsIn = [0x4000] ∧ s.ctrl.getLsbD 1 = false) ∧
    (∃ s : State, s.rxsIn = [0x4000] ∧ s.build.chDepth ≤ s.chDem.length) :=
  ⟨⟨{ State.reset with rxsIn := [0x4000], chDem := [1] }, rfl, rfl, by decide⟩,
    ⟨{ State.reset with rxsIn := [0x4000], ctrl := 1 }, rfl, rfl⟩,
    ⟨{ State.reset with rxsIn := [0x4000], chDem := [1, 2] }, rfl, by decide⟩⟩

theorem witness_DctStepTracksAndSubtracts :
    (∃ s : State, s.chDem = [-32768] ∧ s.chDcc.length < s.build.chDepth) ∧
    (∃ s : State, s.chDem = [1] ∧ s.build.chDepth ≤ s.chDcc.length) :=
  ⟨⟨{ State.reset with chDem := [-32768], chDcc := [5] }, rfl, by decide⟩,
    ⟨{ State.reset with chDem := [1], chDcc := [5, 6] }, rfl, by decide⟩⟩

theorem witness_TrcShiftMovesTheWindow :
    (∃ s : State, s.chDcc = [-65536] ∧ s.trc.need ≠ 0) ∧
    (∃ s : State, s.chDcc = [1] ∧ s.trc.need = 1) :=
  ⟨⟨{ State.reset with chDcc := [-65536] }, rfl, by decide⟩,
    ⟨{ State.reset with chDcc := [1], trc := { State.reset.trc with need := 1 } }, rfl, rfl⟩⟩

theorem witness_TrcEmitDecidesAndUpdatesTheLoop :
    (∃ s : State, s.trc.need = 0 ∧ s.decReady = true) ∧
    (∃ s : State, s.trc.need = 0 ∧ s.decReady = false) :=
  ⟨⟨{ State.reset with trc := { State.reset.trc with need := 0 } }, rfl, rfl⟩,
    ⟨{ State.reset with trc := { State.reset.trc with need := 0 }, decReady := false }, rfl, rfl⟩⟩

theorem witness_UnitWithNoEnabledStepKeepsTheState : ∃ s : State, ¬ unitEnabled .spr s :=
  ⟨State.reset, by simp [unitEnabled, State.reset]⟩

theorem witness_UnselectedUnitOperationChangesNothing :
    ∃ s : State, unitOf (.sprLoad 3) = some .spr ∧ unitKey .spr s ≠ some (encode (.sprLoad 3)) :=
  ⟨{ State.reset with symIn := [4] }, rfl, by decide⟩

/-- A boundary address of each clause: a register, the two ends of the ROM window, and the unmapped addresses next to
them. -/
theorem witness_HostReadReturnsTheMappedWord :
    (BitVec.ofNat 8 (0x40 + 4 * (0 : Sym).toNat) = 0x40) ∧
    (BitVec.ofNat 8 (0x40 + 4 * (15 : Sym).toNat) = 0x7C) ∧
    (0x35 : HostAddr).toNat % 4 ≠ 0 ∧ (0x38 : HostAddr).toNat = 0x38 ∧
    (0x3C : HostAddr).toNat = 0x3C ∧ 0x80 ≤ (0x80 : HostAddr).toNat ∧
    (0x03800000000 : HostWord).getLsbD 40 = false := by decide

theorem witness_host_words :
    (0x104FFFFFFFE : HostWord) &&& 0x1FF00000000 = 0x10400000000 ∧
    (0x10C0000000A : HostWord) &&& 0x1FF00000000 = 0x10C00000000 ∧
    (0x11000100000 : HostWord) &&& 0x1FF00000000 = 0x11000000000 ∧
    (0x114FF080000 : HostWord) &&& 0x1FF00000000 = 0x11400000000 ∧
    (0x11800000EBF : HostWord) &&& 0x1FF00000000 = 0x11800000000 ∧
    (0x11CFFFFFFFF : HostWord) &&& 0x1FF00000000 = 0x11C00000000 ∧
    (0x12000400000 : HostWord) &&& 0x1FF00000000 = 0x12000000000 ∧
    (0x12400400000 : HostWord) &&& 0x1FF00000000 = 0x12400000000 ∧
    ((0x10000000005 : HostWord).getLsbD 40 = true ∧
      (0x10000000005 : HostWord).extractLsb' 32 8 ∉
        ([0x04, 0x08, 0x0C, 0x10, 0x14, 0x18, 0x1C, 0x20, 0x24] : List HostAddr)) ∧
    ((0x10800000004 : HostWord) &&& 0x1FF00000000 = 0x10800000000 ∧
      4 ≤ ((0x10800000004 : HostWord).extractLsb' 0 32).toNat) := by decide

theorem witness_RestartsAndResetAreIdempotent :
    ∃ t : State, Instr.reset ∈ [Instr.cmdRestartTx, .cmdRestartRx, .cmdRestartAll, .reset] ∧
      exec .reset State.reset = .next t :=
  ⟨_, by simp, rfl⟩

theorem witness_DecodeOfEncodeIsTheOperation :
    (Instr.cmdRsvd 4).wf = true ∧ (Instr.hostWrOther 0xFF 1).wf = true := by decide

theorem witness_EncodeOfDecodeIsTheWord : decode (.h41 0x1FFFFFFFFFF) =
    .ok (.hostWrOther 0xFF 0xFFFFFFFF) := by decide

theorem witness_StepRunsTheDecodedOperation :
    ∃ s : State, s.agenda = [.unit .spr] ∧
      fetch (.unit .spr) { s with agenda := [] } = some (.s4 9) ∧
      decode (.s4 9) = .ok (.sprLoad 9) :=
  ⟨{ State.reset with agenda := [.unit .spr], symIn := [9] }, rfl, rfl, rfl⟩

theorem witness_PlacedWordIsTheNextOperation :
    decodeTableWord 24 0x1FFFF = some (.trcShift 0x1FFFF) := by decide

theorem witness_step_keeps_the_invariants :
    ∃ s t : State, sequencingOk s ∧ channelsOk s ∧ loopOk s ∧ step s = .next t :=
  ⟨{ State.reset with agenda := [.rst] }, _,
    by unfold sequencingOk; decide, by simp [channelsOk, State.reset],
    by unfold loopOk; decide, rfl⟩

theorem witness_EnabledUnitStepsCommute :
    ∃ s : State, Unit5.spr ≠ Unit5.psh ∧ unitEnabled .spr s ∧ unitEnabled .psh s :=
  ⟨{ State.reset with spr := ⟨true, 3, 7⟩, chChip := [0x4000] }, by decide,
    .inr ⟨rfl, by decide⟩, .inl ⟨rfl, by decide⟩⟩

theorem witness_TransmitAndReceiveStepsCommute :
    transmitStep (.sprEmit 2) ∧ receiveStep .trcEmit :=
  ⟨.inl rfl, .inr (.inr (.inl rfl))⟩

/-- An operation that takes a next state, for the statements about every operation that does. -/
theorem witness_exec_next :
    ∃ t : State, exec (.sprLoad 3) { State.reset with symIn := [3], sticky := 1 } = .next t ∧
      Instr.sprLoad 3 ≠ .reset ∧ Instr.sprLoad 3 ≠ .cmdRestartAll ∧
      (∀ wdata, Instr.sprLoad 3 ≠ .hostWrStatus wdata) ∧
      (∀ addr wdata, Instr.sprLoad 3 ≠ .hostRd addr wdata) ∧ unitOf (.sprLoad 3) ≠ none ∧
      (1 : BitVec 5).getLsbD 0 = true :=
  ⟨_, rfl, by simp, by simp, by simp, by simp, by decide, rfl⟩

theorem witness_NoOperationDependsOnAFlag :
    ∃ t t' : State, exec .cmdRestartTx State.reset = .next t ∧
      exec .cmdRestartTx { State.reset with sticky := 31 } = .next t' :=
  ⟨_, _, rfl, rfl⟩

/-- Each of the five events is raised somewhere, from clear flags. -/
theorem witness_EventsAreRaisedOnlyByTheirOperations :
    nextIs (exec .trcEmit { State.reset with
        trcOmegaRlim := 0
        trc :=
          { State.reset.trc with
            need := 0, win := #v[-65536, 65535, -65536, 65535, 65535, -65536, 65535, -65536] } })
      (fun t => t.sticky == 5) = true ∧
    nextIs (exec (.qdmStep 0 0) { State.reset with rxsIn := [0] }) (fun t => t.sticky == 2) = true ∧
    nextIs (exec (.cmdRsvd 4) State.reset) (fun t => t.sticky == 8) = true ∧
    nextIs (exec (.hostRd 1 0) State.reset) (fun t => t.sticky == 16) = true := by decide

theorem witness_QuiescenceMeansDrained :
    State.reset.ctrl = 3 ∧ State.reset.txsReady = true ∧ State.reset.decReady = true ∧
      1 ≤ State.reset.build.chDepth ∧ quiescent State.reset :=
  ⟨rfl, rfl, rfl, by decide, fun u => by cases u <;> simp [unitEnabled, State.reset, needAtStart]⟩

theorem witness_StoppedHalfWithNoStepIsDrained :
    ∃ s : State, 1 ≤ s.build.chDepth ∧ s.ctrl.getLsbD 0 = false ∧ s.ctrl.getLsbD 1 = false ∧
      s.txsReady = true ∧ s.decReady = true ∧ ¬ unitEnabled .spr s ∧ ¬ unitEnabled .psh s ∧
      ¬ unitEnabled .dct s ∧ ¬ unitEnabled .trc s :=
  ⟨{ State.reset with ctrl := 0, symIn := [15] }, by decide, rfl, rfl, rfl, rfl,
    by simp [unitEnabled, State.reset, txRun], by simp [unitEnabled, State.reset],
    by simp [unitEnabled, State.reset], by simp [unitEnabled, State.reset, needAtStart]⟩

/-- The first clause in a build with room for a whole symbol, the second in the default build, the third with a list of
turns in which both units act. -/
theorem witness_SymbolGivesItsThirtyTwoChips :
    (∃ s : State, s.spr.busy = false ∧ s.ctrl.getLsbD 0 = true ∧ s.symIn = [6] ∧
      s.chChip.length + 32 ≤ s.build.chDepth) ∧
    (∃ s : State, s.spr.busy = false ∧ s.ctrl.getLsbD 0 = true ∧ s.symIn = [6] ∧
      s.build = Build.default ∧ 1 ≤ s.build.chDepth ∧ s.chChip = [] ∧ s.psh.busy = false ∧
      s.txsReady = true ∧
      ∀ u ∈ [Unit5.spr, .spr, .psh, .spr, .spr, .psh, .spr], u = .spr ∨ u = .psh) :=
  ⟨⟨{ State.reset with symIn := [6], build := { Build.default with chDepth := 32 } }, rfl, rfl, rfl,
      by decide⟩,
    ⟨{ State.reset with symIn := [6] }, rfl, rfl, rfl, rfl, by decide, rfl, rfl, rfl, by decide⟩⟩

theorem witness_ChipGivesItsFourSamples :
    ∃ s : State, s.psh.busy = false ∧ s.txsReady = true ∧ s.chChip = [0xC000] ∧
      s.build.pshW = weightTable :=
  ⟨{ State.reset with chChip := [0xC000] }, rfl, rfl, rfl, rfl⟩

/-- A state in which TRC needs `n` more samples and `x` waits for it, in the default build. -/
def oneWaiting (x : Dcc) (n : Nat) : State :=
  { State.reset with
    chDcc := [x]
    trc := { State.reset.trc with need := BitVec.ofNat 9 n, win := #v[x, x, x, x, x, x, x, x] } }

/-- The first clause in a build with room for eight samples, and the third in the default build. -/
theorem witness_EightShiftsFillTheWindow :
    (∃ s : State, s.chDcc = (#v[1, 2, 3, 4, 5, 6, 7, 8] : Vector Dcc 8).toList ++ [] ∧
      s.trc.need = 8 ∧ s.chDcc.length ≤ s.build.chDepth) ∧
    (∃ s : State, s.rxsIn = (#v[1, 2, 3, 4, 5, 6, 7, 8] : Vector CplxWord 8).toList ++ [9] ∧
      s.ctrl.getLsbD 1 = true ∧ s.chDem = [] ∧ s.chDcc = [] ∧ s.trc.need = 8 ∧
      s.build = Build.default ∧ 1 ≤ s.build.chDepth) :=
  ⟨⟨{ State.reset with
        chDcc := [1, 2, 3, 4, 5, 6, 7, 8], build := { Build.default with chDepth := 8 } },
      rfl, rfl, by decide⟩,
    ⟨{ State.reset with rxsIn := [1, 2, 3, 4, 5, 6, 7, 8, 9] }, rfl, rfl, rfl, rfl, rfl, rfl,
      by decide⟩⟩

/-- The second clause in the default build: the samples come one at a time. -/
theorem witness_EightShiftsFillTheWindow_between :
    ∃ before after : Fin 8 → State, (before 0).trc.need = 8 ∧
      (∀ i, (before i).chDcc.head? = some 5) ∧ (∀ i, (before i).build = Build.default) ∧
      (∀ i, unitStep .trc (before i) = .next (after i)) ∧
      (∀ i : Fin 7, (before i.succ).trc = (after i.castSucc).trc) := by
  refine ⟨fun i => oneWaiting 5 (8 - i.val),
    fun i => { oneWaiting 5 (7 - i.val) with chDcc := [] }, rfl, fun _ => rfl,
    fun _ => rfl, ?_, ?_⟩
  · intro i
    fin_cases i <;> rfl
  · intro i
    fin_cases i <;> rfl

theorem witness_InterpolatorIsExactOnConstants :
    (∀ x ∈ (Vector.replicate 8 (5 : Dcc)).toList, x = (Vector.replicate 8 (5 : Dcc))[3]) ∧
    (0x03FFFF : Gain).toNat < 2 ^ 18 ∧ 2 ^ 24 - 2 ^ 18 ≤ (0xFC0000 : Gain).toNat :=
  ⟨fun _ hx => by simpa using hx, by decide, by decide⟩

theorem witness_PeriodStaysInTheConfiguredRange :
    ∃ s t : State, s.trc.need = 0 ∧ s.decReady = true ∧ s.trcOmegaRlim = 0 ∧ s.trcOmegaMid = 0 ∧
      exec .trcEmit s = .next t :=
  ⟨{ State.reset with
      trcOmegaRlim := 0, trcOmegaMid := 0, trc := { State.reset.trc with need := 0 } }, _,
    rfl, rfl, rfl, rfl, rfl⟩

theorem witness_FrameIsSentLowNibbleFirst :
    ∃ (p : FrameParams) (payload : List Byte), payload.length = 2 ∧ payload.length ≤ 255 ∧
      payload.length ≤ p.maxFrame :=
  ⟨someParams, [0x48, 0xFF], rfl, by decide, by decide⟩

/-- The two clauses at the lengths 0, 127 and 128, where MAX_FRAME is 127. -/
theorem witness_PacketSynchronizerReadsOneFrame :
    syncedSink.phase = .synced ∧ syncedSink.acc = [] ∧
    (∃ header body : List DecWord, header.length = 8 ∧
      (byteOfBits someParams (header.map (·.getLsbD 17))).toNat = 0 ∧ 0 ≤ someParams.maxFrame ∧
      body.length = 8 * 0) ∧
    (∃ header body : List DecWord, header.length = 8 ∧
      (byteOfBits someParams (header.map (·.getLsbD 17))).toNat = 127 ∧
      127 ≤ someParams.maxFrame ∧ body.length = 8 * 127) ∧
    (∃ header : List DecWord, header.length = 8 ∧
      (byteOfBits someParams (header.map (·.getLsbD 17))).toNat = 128 ∧
      someParams.maxFrame < 128) :=
  ⟨rfl, rfl,
    ⟨List.replicate 8 0, [], rfl, by decide, by decide, rfl⟩,
    ⟨List.replicate 7 0x20000 ++ [0], List.replicate (8 * 127) 0, rfl, by decide, by decide,
      List.length_replicate⟩,
    ⟨List.replicate 7 0 ++ [0x20000], rfl, by decide, by decide⟩⟩

end Sys2Proof.Tests
end

