-- ==== Sys2Proof/Proofs/Frames.lean ====
section
/-! What each operation leaves unchanged, once for each unit and once for the host (10_state.md section 5). -/

namespace Sys2Proof.Machine

/-- From `s` to `t` only the registers of the unit, the ports and channels at its two ends and, where the unit raises
events, the sticky flags have changed. -/
def unitFrame (u : Unit5) (s t : State) : Prop :=
  match u with
  | .spr => t = { s with spr := t.spr, symIn := t.symIn, chChip := t.chChip }
  | .psh => t = { s with psh := t.psh, chChip := t.chChip, txsOut := t.txsOut }
  | .qdm => t = { s with
      qdmPrev := t.qdmPrev, rxsIn := t.rxsIn, chDem := t.chDem, sticky := t.sticky }
  | .dct => t = { s with dctEst := t.dctEst, chDem := t.chDem, chDcc := t.chDcc }
  | .trc => t = { s with trc := t.trc, chDcc := t.chDcc, decOut := t.decOut, sticky := t.sticky }

/-- From `s` to `t` only CTRL, the sticky flags, the configuration and `hRdata` have changed. -/
def hostFrame (s t : State) : Prop :=
  t = { s with
    ctrl := t.ctrl, sticky := t.sticky, dctAlpha := t.dctAlpha, trcGainMu := t.trcGainMu
    trcGainOmega := t.trcGainOmega, trcOmegaMid := t.trcOmegaMid
    trcOmegaRlim := t.trcOmegaRlim, trcMuInit := t.trcMuInit, hRdata := t.hRdata }

/-- A unit's operation stays within the unit's frame. -/
theorem exec_unitFrame {i : Instr} {u : Unit5} {s t : State} (hu : unitOf i = some u)
    (h : exec i s = .next t) : unitFrame u s t := by
  cases i with
  | sprLoad sym => cases hu; obtain ⟨-, rfl⟩ | ⟨-, rfl⟩ := execSprLoad_cases h <;> rfl
  | sprEmit k => cases hu; obtain ⟨-, rfl⟩ | ⟨-, rfl⟩ := execSprEmit_cases h <;> rfl
  | pshLoad im re => cases hu; obtain ⟨-, rfl⟩ | ⟨-, rfl⟩ := execPshLoad_cases h <;> rfl
  | pshEmit p => cases hu; obtain ⟨-, rfl⟩ | ⟨-, rfl⟩ := execPshEmit_cases h <;> rfl
  | qdmStep im re => cases hu; obtain ⟨-, rfl⟩ | ⟨-, rfl⟩ := execQdmStep_cases h <;> rfl
  | dctStep ang => cases hu; obtain ⟨-, rfl⟩ | ⟨-, rfl⟩ := execDctStep_cases h <;> rfl
  | trcShift dcc => cases hu; obtain ⟨-, rfl⟩ | ⟨-, rfl⟩ := execTrcShift_cases h <;> rfl
  | trcEmit => cases hu; obtain ⟨-, rfl⟩ | ⟨-, rfl⟩ := execTrcEmit_cases h <;> rfl
  | _ => cases hu

/-- What an operation of no unit can do: it is one of the three restarts or the reset, or it stays within the host's
frame. -/
theorem exec_host_cases {i : Instr} {s t : State} (hu : unitOf i = none)
    (h : exec i s = .next t) :
    (i = .cmdRestartTx ∧ t = restartTx s) ∨ (i = .cmdRestartRx ∧ t = restartRx s) ∨
      (i = .cmdRestartAll ∧ t = restartRx (restartTx s)) ∨
      (i = .reset ∧ t = restartRx (restartTx (configDefaults s))) ∨ hostFrame s t := by
  cases i with
  | cmdRestartTx => cases h; exact .inl ⟨rfl, rfl⟩
  | cmdRestartRx => cases h; exact .inr (.inl ⟨rfl, rfl⟩)
  | cmdRestartAll => cases h; exact .inr (.inr (.inl ⟨rfl, rfl⟩))
  | reset => cases h; exact .inr (.inr (.inr (.inl ⟨rfl, rfl⟩)))
  | hostRd addr wdata =>
    refine .inr (.inr (.inr (.inr ?_)))
    obtain ⟨v, -, rfl⟩ | ⟨-, rfl⟩ := execHostRd_cases (wdata := wdata) h <;> rfl
  | cmdNop | cmdRsvd _ | hostWrOther _ _ | hostWrStatus _ | hostWrCtrl _ | hostWrDctAlpha _
  | hostWrTrcGainMu _ | hostWrTrcGainOmega _ | hostWrTrcOmegaMid _ | hostWrTrcOmegaRlim _
  | hostWrTrcMuInit _ => cases h; exact .inr (.inr (.inr (.inr rfl)))
  | _ => cases hu

/-- SPR takes at most the oldest symbol from SYM_IN. -/
theorem exec_spr_symIn {i : Instr} {s t : State} (hu : unitOf i = some .spr)
    (h : exec i s = .next t) : t.symIn = s.symIn ∨ t.symIn = pop s.symIn := by
  cases i with
  | sprLoad sym =>
    obtain ⟨-, rfl⟩ | ⟨-, rfl⟩ := execSprLoad_cases h
    · exact .inr rfl
    · exact .inl rfl
  | sprEmit k => obtain ⟨-, rfl⟩ | ⟨-, rfl⟩ := execSprEmit_cases h <;> exact .inl rfl
  | _ => cases hu

/-- QDM takes at most the oldest sample from RXS_IN. -/
theorem exec_qdm_rxsIn {i : Instr} {s t : State} (hu : unitOf i = some .qdm)
    (h : exec i s = .next t) : t.rxsIn = s.rxsIn ∨ t.rxsIn = pop s.rxsIn := by
  cases i with
  | qdmStep im re =>
    obtain ⟨-, rfl⟩ | ⟨-, rfl⟩ := execQdmStep_cases h
    · exact .inr rfl
    · exact .inl rfl
  | _ => cases hu

end Sys2Proof.Machine
end

