-- ==== Sys2Proof/Proofs/Channels.lean ====
section
/-! The channel invariant: what the three producers push, and what pushing, taking and dropping tokens keep. -/

namespace Sys2Proof.Machine

/-- A channel holds at most `cap` tokens, each with the property `P`. -/
def ChannelOk {α : Type} (cap : Nat) (P : α → Prop) (ch : List α) : Prop :=
  ch.length ≤ cap ∧ ∀ x ∈ ch, P x

theorem ChannelOk.nil {α : Type} {cap : Nat} {P : α → Prop} : ChannelOk cap P [] :=
  ⟨Nat.zero_le _, by simp⟩

theorem ChannelOk.pop {α : Type} {cap : Nat} {P : α → Prop} {ch : List α}
    (h : ChannelOk cap P ch) : ChannelOk cap P (pop ch) :=
  ⟨(pop_length_le ch).trans h.1, fun x hx => h.2 x (mem_of_mem_pop hx)⟩

theorem ChannelOk.push {α : Type} {s : State} {P : α → Prop} {ch : List α} {v : α}
    (h : ChannelOk s.build.chDepth P ch) (hroom : full s ch = false) (hv : P v) :
    ChannelOk s.build.chDepth P (push ch v) := by
  refine ⟨?_, fun x hx => ?_⟩
  · rw [push_length]
    exact (full_eq_false_iff s ch).mp hroom
  · obtain hx | rfl := (mem_push ch v x).mp hx
    · exact h.2 x hx
    · exact hv

/-- R102: a token of CH_CHIP is a unit chip. -/
def chipTokenOk (c : CplxWord) : Prop := c ∈ unitChipTokens

/-- R103: a token of CH_DEM is an angle of at most half a turn. -/
def demTokenOk (a : Ang) : Prop := -25736 ≤ a.toInt ∧ a.toInt ≤ 25736

/-- R103: the range of a token of CH_DCC. -/
def dccTokenOk (x : Dcc) : Prop := -65535 ≤ x.toInt ∧ x.toInt ≤ 65535

/-- The channel invariant is one statement for each of the three channels. -/
theorem channelsOk_iff (s : State) :
    channelsOk s ↔
      ChannelOk s.build.chDepth chipTokenOk s.chChip ∧
        ChannelOk s.build.chDepth demTokenOk s.chDem ∧
        ChannelOk s.build.chDepth dccTokenOk s.chDcc := by
  unfold channelsOk ChannelOk chipTokenOk demTokenOk dccTokenOk
  tauto

/-- What SPR pushes is a unit chip: the bit of the word gives the sign and the parity of `k` the axis (R131). -/
theorem chipTokenOk_chip (b : Build) (sym : Sym) (k : BitVec 5) :
    chipTokenOk (tokenOf (chip b sym k)) := by
  dsimp only [chipTokenOk, chip]
  split_ifs <;> decide

/-- The arctangent is limited to half a turn, whatever the table (R173). -/
theorem atan2Q_bounds (b : Build) (y x : Int) :
    -25736 ≤ atan2Q b y x ∧ atan2Q b y x ≤ 25736 :=
  clamp_bounds _ (-piQ) piQ (by decide)

/-- What QDM pushes is an angle of at most half a turn (R172). -/
theorem demTokenOk_demodulate (b : Build) (x prev : Cplx) : demTokenOk (demodulate b x prev) := by
  unfold demTokenOk demodulate
  split
  · decide
  · have hb := atan2Q_bounds b (conjIm x prev) (conjRe x prev)
    rwa [toInt_ofInt_of_mem _ (by omega) (by omega)]

/-- A gain below 1 moves by no more than the whole distance and never the other way. -/
theorem gain_mul_shr_between (alpha : Gain) (d : Int) :
    min 0 d ≤ shr ((alpha.toNat : Int) * d) 24 ∧ shr ((alpha.toNat : Int) * d) 24 ≤ max 0 d := by
  have ha := alpha.isLt
  rw [shr_24]
  rcases le_total 0 d with hd | hd
  · have hnonneg : 0 ≤ (alpha.toNat : Int) * d := by positivity
    have hle : (alpha.toNat : Int) * d ≤ 16777216 * d :=
      mul_le_mul_of_nonneg_right (by omega) hd
    omega
  · have hnonpos : (alpha.toNat : Int) * d ≤ 0 :=
      mul_nonpos_of_nonneg_of_nonpos (by positivity) hd
    have hge : 16777216 * d ≤ (alpha.toNat : Int) * d :=
      mul_le_mul_of_nonpos_right (by omega) hd
    omega

/-- The updated estimate lies between the old estimate and the input: bounds on both bound it (R192, R193). -/
theorem trackedEstimate_between (alpha : Gain) (est : Est) (x : Ang) :
    min est.toInt (x.toInt * 16777216) ≤ trackedEstimate alpha est x ∧
      trackedEstimate alpha est x ≤ max est.toInt (x.toInt * 16777216) := by
  have h := gain_mul_shr_between alpha (shl x.toInt 24 - est.toInt)
  unfold trackedEstimate
  rw [shl_24] at *
  omega

/-- The output of the tracker fits its token's range for every estimate and every input (R192, R103). -/
theorem dcCorrected_bounds (alpha : Gain) (est : Est) (x : Ang) :
    -65535 ≤ dcCorrected alpha est x ∧ dcCorrected alpha est x ≤ 65535 := by
  have hnew := trackedEstimate_between alpha est x
  have hest₁ := est.le_toInt
  have hest₂ := est.toInt_lt
  have hx₁ := x.le_toInt
  have hx₂ := x.toInt_lt
  unfold dcCorrected
  rw [shr_24]
  omega

/-- What DCT pushes is in its token's range. -/
theorem dccTokenOk_dcCorrected (alpha : Gain) (est : Est) (x : Ang) :
    dccTokenOk (BitVec.ofInt 17 (dcCorrected alpha est x)) := by
  have hb := dcCorrected_bounds alpha est x
  unfold dccTokenOk
  rwa [toInt_ofInt_of_mem _ (by omega) (by omega)]

/-- Every operation keeps the channel invariant. -/
theorem exec_keeps_channelsOk {i : Instr} {s t : State} (hs : channelsOk s)
    (h : exec i s = .next t) : channelsOk t := by
  obtain ⟨hChip, hDem, hDcc⟩ := (channelsOk_iff s).mp hs
  rw [channelsOk_iff]
  cases hu : unitOf i with
  | none =>
    obtain ⟨-, rfl⟩ | ⟨-, rfl⟩ | ⟨-, rfl⟩ | ⟨-, rfl⟩ | hf := exec_host_cases hu h
    · exact ⟨.nil, hDem, hDcc⟩
    · exact ⟨hChip, .nil, .nil⟩
    · exact ⟨.nil, .nil, .nil⟩
    · exact ⟨.nil, .nil, .nil⟩
    · rw [hf]
      exact ⟨hChip, hDem, hDcc⟩
  | some u =>
    cases i with
    | sprLoad sym =>
      obtain ⟨-, rfl⟩ | ⟨-, rfl⟩ := execSprLoad_cases h <;> exact ⟨hChip, hDem, hDcc⟩
    | sprEmit k =>
      obtain ⟨⟨-, -, hroom⟩, rfl⟩ | ⟨-, rfl⟩ := execSprEmit_cases h
      · exact ⟨hChip.push hroom (chipTokenOk_chip ..), hDem, hDcc⟩
      · exact ⟨hChip, hDem, hDcc⟩
    | pshLoad im re =>
      obtain ⟨-, rfl⟩ | ⟨-, rfl⟩ := execPshLoad_cases h
      · exact ⟨hChip.pop, hDem, hDcc⟩
      · exact ⟨hChip, hDem, hDcc⟩
    | pshEmit p =>
      obtain ⟨-, rfl⟩ | ⟨-, rfl⟩ := execPshEmit_cases h <;> exact ⟨hChip, hDem, hDcc⟩
    | qdmStep im re =>
      obtain ⟨⟨-, -, hroom⟩, rfl⟩ | ⟨-, rfl⟩ := execQdmStep_cases h
      · exact ⟨hChip, hDem.push hroom (demTokenOk_demodulate ..), hDcc⟩
      · exact ⟨hChip, hDem, hDcc⟩
    | dctStep ang =>
      obtain ⟨⟨-, hroom⟩, rfl⟩ | ⟨-, rfl⟩ := execDctStep_cases h
      · exact ⟨hChip, hDem.pop, hDcc.push hroom (dccTokenOk_dcCorrected ..)⟩
      · exact ⟨hChip, hDem, hDcc⟩
    | trcShift dcc =>
      obtain ⟨-, rfl⟩ | ⟨-, rfl⟩ := execTrcShift_cases h
      · exact ⟨hChip, hDem, hDcc.pop⟩
      · exact ⟨hChip, hDem, hDcc⟩
    | trcEmit =>
      obtain ⟨-, rfl⟩ | ⟨-, rfl⟩ := execTrcEmit_cases h <;> exact ⟨hChip, hDem, hDcc⟩
    | _ => cases hu

/-- A turn keeps the channel invariant: the environment does not reach the channels, and every operation keeps it. -/
theorem stepTurn_keeps_channelsOk {turn : Turn} {s t : State} (hs : channelsOk s)
    (h : stepTurn turn s = .next t) : channelsOk t := by
  obtain ⟨-, he⟩ | ⟨key, i, -, -, he⟩ := stepTurn_cases turn s <;> rw [he] at h
  · cases h
    rw [environment_frame]
    exact hs
  · exact exec_keeps_channelsOk hs h

/-- Settles O33: taking the turn leaves the channels as they are, and the turn's step keeps the invariant. -/
theorem stepKeepsTheChannelInvariant : Obligations.StepKeepsTheChannelInvariant := by
  intro s t hs h
  have hTaken : channelsOk (takeTurn s).2 := by
    rw [takeTurn_frame]
    exact hs
  exact stepTurn_keeps_channelsOk hTaken h

end Sys2Proof.Machine
end

