-- ==== Sys2Proof/Proofs/Noninterference.lean ====
section
/-! Who writes what: the registers of the units, the configuration, and the sticky flags. -/

namespace Sys2Proof.Machine

/-- Settles O39: a unit's operation stays within its own frame, and the host's touch registers of a unit only by a
restart or reset. -/
theorem onlyTheOwnerWritesAUnitsRegisters : Obligations.OnlyTheOwnerWritesAUnitsRegisters := by
  intro i s t h hReset hAll
  cases hu : unitOf i with
  | some u =>
    have hf := exec_unitFrame hu h
    cases u <;> (rw [hf]; simp)
  | none =>
    obtain ⟨rfl, rfl⟩ | ⟨rfl, rfl⟩ | ⟨rfl, -⟩ | ⟨rfl, -⟩ | hf := exec_host_cases hu h
    · simp
    · simp
    · exact absurd rfl hAll
    · exact absurd rfl hReset
    · rw [hf]
      simp

/-- Every operation takes at most the oldest token from each input port. -/
theorem exec_inputPorts {i : Instr} {s t : State} (h : exec i s = .next t) :
    (t.symIn = s.symIn ∨ t.symIn = pop s.symIn) ∧ (t.rxsIn = s.rxsIn ∨ t.rxsIn = pop s.rxsIn) := by
  cases hu : unitOf i with
  | none =>
    obtain ⟨-, rfl⟩ | ⟨-, rfl⟩ | ⟨-, rfl⟩ | ⟨-, rfl⟩ | hf := exec_host_cases hu h
    case inr.inr.inr.inr =>
      rw [hf]
      exact ⟨.inl rfl, .inl rfl⟩
    all_goals exact ⟨.inl rfl, .inl rfl⟩
  | some u =>
    have hf := exec_unitFrame hu h
    cases u with
    | spr => exact ⟨exec_spr_symIn hu h, .inl (by rw [hf])⟩
    | qdm => exact ⟨.inl (by rw [hf]), exec_qdm_rxsIn hu h⟩
    | psh | dct | trc => exact ⟨.inl (by rw [hf]), .inl (by rw [hf])⟩

/-- Settles O40: no unit's frame and no restart names a host-written register or `hRdata`. -/
theorem unitStepsKeepTheConfiguration : Obligations.UnitStepsKeepTheConfiguration := by
  intro i s t h hi
  obtain ⟨hSym, hRxs⟩ := exec_inputPorts h
  obtain hu | rfl | rfl | rfl := hi
  · obtain ⟨u, hu⟩ := Option.ne_none_iff_exists'.mp hu
    have hf := exec_unitFrame hu h
    refine ⟨?_, ?_, ?_, ?_, ?_, ?_, ?_, ?_, hSym, hRxs⟩ <;> cases u <;> rw [hf]
  all_goals
    cases h
    exact ⟨rfl, rfl, rfl, rfl, rfl, rfl, rfl, rfl, hSym, hRxs⟩

/-- Every flag set in `f` is set in `g`. -/
def FlagsKept (f g : BitVec 5) : Prop := ∀ n, f.getLsbD n = true → g.getLsbD n = true

theorem FlagsKept.refl (f : BitVec 5) : FlagsKept f f := fun _ => id

theorem FlagsKept.setFlag {f g : BitVec 5} (h : FlagsKept f g) (e : Event) :
    FlagsKept f (setFlag e g) := fun n hn => by
  rw [setFlag_bit, h n hn, Bool.true_or]

theorem FlagsKept.setFlagIf {f g : BitVec 5} (h : FlagsKept f g) (c : Bool) (e : Event) :
    FlagsKept f (setFlagIf c e g) := by
  cases c
  · exact h
  · exact h.setFlag e

/-- Every operation but the host clear and the reset keeps every set flag: it leaves the flags or raises events. -/
theorem exec_keeps_flags {i : Instr} {s t : State} (h : exec i s = .next t)
    (hClear : ∀ wdata, i ≠ .hostWrStatus wdata) (hReset : i ≠ .reset) :
    FlagsKept s.sticky t.sticky := by
  have hRefl := FlagsKept.refl s.sticky
  cases i with
  | qdmStep im re =>
    obtain ⟨-, rfl⟩ | ⟨-, rfl⟩ := execQdmStep_cases h
    · exact hRefl.setFlagIf _ _
    · exact hRefl
  | trcEmit =>
    obtain ⟨-, rfl⟩ | ⟨-, rfl⟩ := execTrcEmit_cases h
    · exact (hRefl.setFlagIf _ _).setFlagIf _ _
    · exact hRefl
  | sprLoad _ | sprEmit _ | pshLoad _ _ | pshEmit _ | dctStep _ =>
    have hf := exec_unitFrame rfl h
    rwa [hf]
  | trcShift dcc => obtain ⟨-, rfl⟩ | ⟨-, rfl⟩ := execTrcShift_cases h <;> exact hRefl
  | hostRd addr wdata =>
    obtain ⟨v, -, rfl⟩ | ⟨-, rfl⟩ := execHostRd_cases (wdata := wdata) h
    · exact hRefl
    · exact hRefl.setFlag _
  | cmdRsvd _ | hostWrOther _ _ =>
    cases h
    exact hRefl.setFlag _
  | hostWrStatus wdata => exact absurd rfl (hClear wdata)
  | reset => exact absurd rfl hReset
  | cmdNop | cmdRestartTx | cmdRestartRx | cmdRestartAll | hostWrCtrl _ | hostWrDctAlpha _
  | hostWrTrcGainMu _ | hostWrTrcGainOmega _ | hostWrTrcOmegaMid _ | hostWrTrcOmegaRlim _
  | hostWrTrcMuInit _ =>
    cases h
    exact hRefl

/-- Settles O41: the flags after such an operation hold every flag set before it. -/
theorem flagsAreClearedOnlyByHostOrReset : Obligations.FlagsAreClearedOnlyByHostOrReset :=
  fun _ _ _ n h hClear hReset hn => exec_keeps_flags h hClear hReset n hn

/-- The two states differ in the sticky flags alone. -/
def SameButFlags (t t' : State) : Prop := t' = { t with sticky := t'.sticky }

/-- Two runs of a unit operation under one enabling condition end alike where both its effect and waiting do. -/
theorem sameButFlags_of_ite {c : Prop} [Decidable c] {a a' b b' t t' : State}
    (h : (if c then .next a else .next b : Host.Outcome State Fault Refusal) = .next t)
    (h' : (if c then .next a' else .next b' : Host.Outcome State Fault Refusal) = .next t')
    (hEffect : SameButFlags a a') (hWait : SameButFlags b b') : SameButFlags t t' := by
  by_cases hc : c
  · rw [if_pos hc] at h h'
    cases h
    cases h'
    exact hEffect
  · rw [if_neg hc] at h h'
    cases h
    cases h'
    exact hWait

/-- Settles O43: no enabling condition and no effect outside the flags mentions the flags. -/
theorem noOperationDependsOnAFlag : Obligations.NoOperationDependsOnAFlag := by
  intro i s t t' flags hRd h h'
  cases i with
  | hostRd addr wdata => exact absurd rfl (hRd addr wdata)
  | sprLoad _ | sprEmit _ | pshLoad _ _ | pshEmit _ | qdmStep _ _ | dctStep _ | trcShift _
  | trcEmit => exact sameButFlags_of_ite h h' rfl rfl
  | cmdNop | cmdRestartTx | cmdRestartRx | cmdRestartAll | cmdRsvd _ | hostWrOther _ _
  | hostWrStatus _ | hostWrCtrl _ | hostWrDctAlpha _ | hostWrTrcGainMu _ | hostWrTrcGainOmega _
  | hostWrTrcOmegaMid _ | hostWrTrcOmegaRlim _ | hostWrTrcMuInit _ | reset =>
    cases h
    cases h'
    rfl

end Sys2Proof.Machine
end

