-- ==== Sys2Proof/Proofs/ResetState.lean ====
section
/-! The reset state (10_state.md R60). -/

namespace Sys2Proof.Machine

/-- Settles O22: each row by evaluation of the reset state. -/
theorem resetValuesAreTheTableOfR60 : Obligations.ResetValuesAreTheTableOfR60 :=
  ⟨rfl, rfl, rfl, rfl, rfl, rfl, rfl, rfl, rfl, rfl, rfl, rfl, rfl, rfl, rfl, rfl, rfl, rfl, rfl, rfl,
    rfl, rfl⟩

theorem sequencingOk_reset : sequencingOk State.reset :=
  ⟨fun _ => rfl, fun _ => rfl, by decide⟩

/-- Every channel is empty after reset. -/
theorem channelsOk_reset : channelsOk State.reset :=
  (channelsOk_iff _).mpr ⟨.nil, .nil, .nil⟩

theorem loopOk_reset : loopOk State.reset := by
  unfold loopOk
  decide

/-- Settles O35: the base case of the three invariants. -/
theorem resetStateMeetsTheInvariants : Obligations.ResetStateMeetsTheInvariants :=
  ⟨sequencingOk_reset, channelsOk_reset, loopOk_reset⟩

end Sys2Proof.Machine
end

section
/-! What no step writes, and what of a unit operation is seen by which other (20_memory.md R80, R81, R87). -/

namespace Sys2Proof.Machine

/-! ## The tables -/

/-- No operation writes a table: neither the frame of a unit, nor a restart or the reset, nor the host's frame names
`build`. -/
theorem exec_build {i : Instr} {s t : State} (h : exec i s = .next t) : t.build = s.build := by
  cases hu : unitOf i with
  | some u =>
    have hf := exec_unitFrame hu h
    cases u <;> rw [hf]
  | none =>
    obtain ⟨-, rfl⟩ | ⟨-, rfl⟩ | ⟨-, rfl⟩ | ⟨-, rfl⟩ | hf := exec_host_cases hu h
    case inr.inr.inr.inr => rw [hf]
    all_goals rfl

theorem stepTurn_build {turn : Turn} {s t : State} (h : stepTurn turn s = .next t) :
    t.build = s.build := by
  obtain ⟨-, he⟩ | ⟨key, i, -, -, he⟩ := stepTurn_cases turn s <;> rw [he] at h
  · cases h
    rw [environment_frame]
  · exact exec_build h

/-- Settles O36: taking the turn keeps the tables, and so does the turn's step. -/
theorem stepNeverWritesATable : Obligations.StepNeverWritesATable := by
  intro s t h
  calc t.build = (takeTurn s).2.build := stepTurn_build h
    _ = s.build := by rw [takeTurn_frame]

/-! ## The two halves -/

/-- An operation that has its effect where it is enabled and else waits answers a next state. -/
theorem exists_next_of_ite {c : Prop} [Decidable c] (a b : State) :
    ∃ t, (if c then .next a else .next b : Host.Outcome State Fault Refusal) = .next t := by
  split <;> exact ⟨_, rfl⟩

/-- Every operation answers a next state, in every state (60_exceptions.md R320). -/
theorem exec_answers (i : Instr) (s : State) : ∃ t, exec i s = .next t := by
  cases i with
  | sprLoad _ | sprEmit _ | pshLoad _ _ | pshEmit _ | qdmStep _ _ | dctStep _ | trcShift _
  | trcEmit => exact exists_next_of_ite ..
  | hostRd addr wdata =>
    cases h : hostReg addr s with
    | some v => exact ⟨{ s with hRdata := v }, by simp [exec, execHostRd, h]⟩
    | none => exact ⟨raise .badAddr { s with hRdata := 0 }, by simp [exec, execHostRd, h]⟩
  | _ => exact ⟨_, rfl⟩

/-- `s` with what the transmit half writes as it is in `t`. -/
def State.withTransmitOf (s t : State) : State :=
  { s with
    spr := t.spr, psh := t.psh, chChip := t.chChip, symIn := t.symIn, txsOut := t.txsOut }

/-- `s` with what the receive half writes as it is in `t`. -/
def State.withReceiveOf (s t : State) : State :=
  { s with
    qdmPrev := t.qdmPrev, dctEst := t.dctEst, trc := t.trc, chDem := t.chDem, chDcc := t.chDcc
    rxsIn := t.rxsIn, decOut := t.decOut, sticky := t.sticky }

/-- The halves write different fields, so the order of the two writes does not matter. -/
theorem withReceiveOf_withTransmitOf (s a b : State) :
    (s.withReceiveOf b).withTransmitOf a = (s.withTransmitOf a).withReceiveOf b := rfl

/-- A step of the transmit half writes nothing but what is that half's. -/
theorem exec_transmit_frame {i : Instr} {s t : State} (hi : transmitStep i)
    (h : exec i s = .next t) : t = s.withTransmitOf t := by
  obtain hu | hu | rfl := hi
  · rw [exec_unitFrame hu h]
    rfl
  · rw [exec_unitFrame hu h]
    rfl
  · cases h
    rfl

/-- A step of the receive half writes nothing but what is that half's. -/
theorem exec_receive_frame {i : Instr} {s t : State} (hi : receiveStep i)
    (h : exec i s = .next t) : t = s.withReceiveOf t := by
  obtain hu | hu | hu | rfl := hi
  · rw [exec_unitFrame hu h]
    rfl
  · rw [exec_unitFrame hu h]
    rfl
  · rw [exec_unitFrame hu h]
    rfl
  · cases h
    rfl

/-- A change `f` of the state that leaves an enabling condition alone, and that effect and waiting carry along, is
carried along by the operation. -/
theorem next_map_of_ite {c : Prop} [Decidable c] {a a' b b' t : State} (f : State → State)
    (h : (if c then .next a else .next b : Host.Outcome State Fault Refusal) = .next t)
    (hEffect : a' = f a) (hWait : b' = f b) :
    (if c then .next a' else .next b' : Host.Outcome State Fault Refusal) = .next (f t) := by
  subst hEffect hWait
  split at h <;> cases h
  · exact if_pos ‹_›
  · exact if_neg ‹_›

/-- A step of the transmit half does not see what the receive half has done. -/
theorem exec_transmit_withReceiveOf {i : Instr} {s t : State} (r : State) (hi : transmitStep i)
    (h : exec i s = .next t) : exec i (s.withReceiveOf r) = .next (t.withReceiveOf r) := by
  cases i with
  | sprLoad _ | sprEmit _ | pshLoad _ _ | pshEmit _ =>
    exact next_map_of_ite (·.withReceiveOf r) h rfl rfl
  | cmdRestartTx =>
    cases h
    rfl
  | _ => simp [transmitStep, unitOf] at hi

/-- A step of the receive half does not see what the transmit half has done. -/
theorem exec_receive_withTransmitOf {i : Instr} {s t : State} (r : State) (hi : receiveStep i)
    (h : exec i s = .next t) : exec i (s.withTransmitOf r) = .next (t.withTransmitOf r) := by
  cases i with
  | qdmStep _ _ | dctStep _ | trcShift _ | trcEmit =>
    exact next_map_of_ite (·.withTransmitOf r) h rfl rfl
  | cmdRestartRx =>
    cases h
    rfl
  | _ => simp [receiveStep, unitOf] at hi

/-- Settles O38: each half sees only its own part of the state, which the other leaves alone, and so either order
ends with the transmit part of the one step and the receive part of the other. -/
theorem transmitAndReceiveStepsCommute : Obligations.TransmitAndReceiveStepsCommute := by
  intro s i j hi hj
  obtain ⟨a, ha⟩ := exec_answers i s
  obtain ⟨b, hb⟩ := exec_answers j s
  have hfa := exec_transmit_frame hi ha
  have hfb := exec_receive_frame hj hb
  have hja := exec_receive_withTransmitOf a hj hb
  have hib := exec_transmit_withReceiveOf b hi ha
  rw [← hfa] at hja
  rw [← hfb] at hib
  have hSame : b.withTransmitOf a = a.withReceiveOf b := by
    calc b.withTransmitOf a = (s.withReceiveOf b).withTransmitOf a := by rw [← hfb]
      _ = (s.withTransmitOf a).withReceiveOf b := withReceiveOf_withTransmitOf s a b
      _ = a.withReceiveOf b := by rw [← hfa]
  exact ⟨a, b, _, ha, hb, hja, hSame ▸ hib⟩

end Sys2Proof.Machine
end

section
/-! Quiescence: what it says of each unit that its step is not enabled (20_memory.md R84). -/

namespace Sys2Proof.Machine

/-- An empty channel has room for a token. -/
theorem room_of_empty {α : Type} {ch : List α} {depth : Nat} (hDepth : 1 ≤ depth) (h : ch = []) :
    ch.length < depth := by
  rw [h]
  exact hDepth

/-- Where the environment accepts samples, PSH has no step exactly when it is idle and has no chip to take. -/
theorem not_unitEnabled_psh_iff {s : State} (hReady : s.txsReady = true) :
    ¬ unitEnabled .psh s ↔ s.psh.busy = false ∧ s.chChip = [] := by
  cases hb : s.psh.busy <;> simp [unitEnabled, hb, hReady]

/-- Where CH_CHIP is empty, SPR has no step exactly when it is idle and may take no symbol. -/
theorem not_unitEnabled_spr_iff {s : State} (hDepth : 1 ≤ s.build.chDepth) (hChip : s.chChip = []) :
    ¬ unitEnabled .spr s ↔ s.spr.busy = false ∧ (txRun s = true → s.symIn = []) := by
  have hRoom : s.chChip.length < s.build.chDepth := room_of_empty hDepth hChip
  cases hb : s.spr.busy <;> simp [unitEnabled, hb, hRoom]

/-- Where the environment accepts decisions, TRC has no step exactly when it waits for a sample that is not there. -/
theorem not_unitEnabled_trc_iff {s : State} (hReady : s.decReady = true) :
    ¬ unitEnabled .trc s ↔ s.trc.need ≠ 0 ∧ s.chDcc = [] := by
  simp only [unitEnabled, hReady]
  tauto

/-- Where CH_DCC is empty, DCT has no step exactly when its input is empty. -/
theorem not_unitEnabled_dct_iff {s : State} (hDepth : 1 ≤ s.build.chDepth) (hDcc : s.chDcc = []) :
    ¬ unitEnabled .dct s ↔ s.chDem = [] := by
  have hRoom : s.chDcc.length < s.build.chDepth := room_of_empty hDepth hDcc
  simp [unitEnabled, hRoom]

/-- Where CH_DEM is empty, QDM has no step exactly when it may take no sample. -/
theorem not_unitEnabled_qdm_iff {s : State} (hDepth : 1 ≤ s.build.chDepth) (hDem : s.chDem = []) :
    ¬ unitEnabled .qdm s ↔ (rxRun s = true → s.rxsIn = []) := by
  have hRoom : s.chDem.length < s.build.chDepth := room_of_empty hDepth hDem
  simp [unitEnabled, hRoom]

/-- The transmit half, from its output back to its input: neither unit has a step exactly when it is drained. -/
theorem transmit_noStep_iff {s : State} (hDepth : 1 ≤ s.build.chDepth) (hReady : s.txsReady = true) :
    ¬ unitEnabled .psh s ∧ ¬ unitEnabled .spr s ↔
      (s.psh.busy = false ∧ s.chChip = []) ∧
        s.spr.busy = false ∧ (txRun s = true → s.symIn = []) := by
  rw [not_unitEnabled_psh_iff hReady]
  exact and_congr_right fun ⟨_, hChip⟩ => not_unitEnabled_spr_iff hDepth hChip

/-- The receive half, from its output back to its input: no unit has a step exactly when it is drained. -/
theorem receive_noStep_iff {s : State} (hDepth : 1 ≤ s.build.chDepth) (hReady : s.decReady = true) :
    ¬ unitEnabled .trc s ∧ ¬ unitEnabled .dct s ∧ ¬ unitEnabled .qdm s ↔
      (s.trc.need ≠ 0 ∧ s.chDcc = []) ∧ s.chDem = [] ∧ (rxRun s = true → s.rxsIn = []) := by
  rw [not_unitEnabled_trc_iff hReady]
  refine and_congr_right fun ⟨_, hDcc⟩ => ?_
  rw [not_unitEnabled_dct_iff hDepth hDcc]
  exact and_congr_right fun hDem => not_unitEnabled_qdm_iff hDepth hDem

/-- Quiescence, each half taken from its output back to its input. -/
theorem quiescent_iff (s : State) :
    quiescent s ↔
      (¬ unitEnabled .psh s ∧ ¬ unitEnabled .spr s) ∧
        ¬ unitEnabled .trc s ∧ ¬ unitEnabled .dct s ∧ ¬ unitEnabled .qdm s :=
  ⟨fun h => ⟨⟨h .psh, h .spr⟩, h .trc, h .dct, h .qdm⟩,
    fun ⟨⟨hPsh, hSpr⟩, hTrc, hDct, hQdm⟩ u => by cases u <;> assumption⟩

theorem statusWord_bit8 (s : State) : (statusWord s).getLsbD 8 = txBusy s := by
  simp [statusWord]

theorem statusWord_bit9 (s : State) : (statusWord s).getLsbD 9 = rxBusy s := by
  simp [statusWord]

theorem txBusy_eq_false_iff (s : State) :
    txBusy s = false ↔ s.spr.busy = false ∧ s.psh.busy = false ∧ s.chChip = [] := by
  simp [txBusy, and_assoc]

theorem rxBusy_eq_false_iff (s : State) :
    rxBusy s = false ↔ s.chDem = [] ∧ s.chDcc = [] ∧ s.trc.need ≠ 0 := by
  simp [rxBusy, and_assoc]

/-- Settles O44: both halves drain from the output back, and a drained half is not busy. -/
theorem quiescenceMeansDrained : Obligations.QuiescenceMeansDrained := by
  intro s hCtrl hTxs hDec hDepth
  have hTx : txRun s = true := by simp [txRun, hCtrl]
  have hRx : rxRun s = true := by simp [rxRun, hCtrl]
  have hDrained : quiescent s ↔
      s.symIn = [] ∧ s.rxsIn = [] ∧ s.chChip = [] ∧ s.chDem = [] ∧ s.chDcc = [] ∧
        s.spr.busy = false ∧ s.psh.busy = false ∧ s.trc.need ≠ 0 := by
    rw [quiescent_iff, transmit_noStep_iff hDepth hTxs, receive_noStep_iff hDepth hDec]
    simp only [hTx, hRx, true_imp_iff]
    tauto
  refine ⟨hDrained, fun hq => ?_⟩
  obtain ⟨-, -, hChip, hDem, hDcc, hSpr, hPsh, hNeed⟩ := hDrained.mp hq
  rw [statusWord_bit8, statusWord_bit9]
  exact ⟨(txBusy_eq_false_iff s).mpr ⟨hSpr, hPsh, hChip⟩,
    (rxBusy_eq_false_iff s).mpr ⟨hDem, hDcc, hNeed⟩⟩

end Sys2Proof.Machine
end

section
/-! Steps of two enabled units commute (20_memory.md R81): first from units to operations, then pair by pair. -/

namespace Sys2Proof.Machine

/-! ## From units to operations -/

/-- The enabling condition of a unit operation; an operation of the host or the reset has none. -/
def OpEnabled (i : Instr) (s : State) : Prop :=
  match i with
  | .sprLoad sym => SprLoadEnabled sym s
  | .sprEmit k => SprEmitEnabled k s
  | .pshLoad im re => PshLoadEnabled im re s
  | .pshEmit p => PshEmitEnabled p s
  | .qdmStep im re => QdmStepEnabled im re s
  | .dctStep ang => DctStepEnabled ang s
  | .trcShift dcc => TrcShiftEnabled dcc s
  | .trcEmit => TrcEmitEnabled s
  | _ => True

/-- An enabled operation is the one its unit's present word selects (30_encoding.md R105). -/
theorem unitKey_of_opEnabled {i : Instr} {u : Unit5} {s : State} (hu : unitOf i = some u)
    (hi : OpEnabled i s) : unitKey u s = some (encode i) := by
  cases i with
  | sprLoad sym =>
    obtain ⟨hBusy, -, hHead⟩ := hi
    cases hu
    simp [unitKey, encode, hBusy, hHead]
  | sprEmit k =>
    obtain ⟨hBusy, hk, -⟩ := hi
    cases hu
    simp [unitKey, encode, sprWord, hBusy, hk]
  | pshLoad im re =>
    obtain ⟨hBusy, hHead⟩ := hi
    cases hu
    simp [unitKey, encode, hBusy, hHead]
  | pshEmit p =>
    obtain ⟨hBusy, hp, -⟩ := hi
    cases hu
    simp [unitKey, encode, pshWord, hBusy, hp]
  | qdmStep im re =>
    obtain ⟨-, hHead, -⟩ := hi
    cases hu
    simp [unitKey, encode, hHead]
  | dctStep ang =>
    obtain ⟨hHead, -⟩ := hi
    cases hu
    simp [unitKey, encode, hHead]
  | trcShift dcc =>
    obtain ⟨hNeed, hHead⟩ := hi
    cases hu
    exact (if_neg hNeed).trans (by rw [hHead]; rfl)
  | trcEmit =>
    obtain ⟨hNeed, -⟩ := hi
    cases hu
    simp [unitKey, encode, trcWord, hNeed]
  | _ => cases hu

/-- The decoder takes the word of a unit operation back to the operation. -/
theorem decode_encode_of_unitOf {i : Instr} {u : Unit5} (hu : unitOf i = some u) :
    decode (encode i) = .ok i := by
  cases i with
  | sprEmit k =>
    clear hu
    revert k
    decide
  | pshEmit p =>
    clear hu
    revert p
    decide
  | pshLoad im re | qdmStep im re => simp [decode, encode]
  | sprLoad _ | dctStep _ | trcShift _ | trcEmit => rfl
  | _ => cases hu

/-- A turn given to a unit runs the unit's enabled operation. -/
theorem unitStep_eq_exec {i : Instr} {u : Unit5} {s : State} (hu : unitOf i = some u)
    (hi : OpEnabled i s) : unitStep u s = exec i s := by
  have hKey : fetch (.unit u) s = some (encode i) := unitKey_of_opEnabled hu hi
  simp [unitStep, stepTurn, hKey, decode_encode_of_unitOf hu]

/-- A unit that has a step enabled has one enabled operation at least: the token or counter of its word is there. -/
theorem exists_opEnabled_of_unitEnabled {u : Unit5} {s : State} (h : unitEnabled u s) :
    ∃ i, unitOf i = some u ∧ OpEnabled i s := by
  cases u with
  | spr =>
    obtain ⟨hBusy, hRun, hIn⟩ | ⟨hBusy, hRoom⟩ := h
    · exact ⟨.sprLoad (s.symIn.head hIn), rfl, hBusy, hRun, List.head?_eq_some_head hIn⟩
    · exact ⟨.sprEmit s.spr.k, rfl, hBusy, rfl, (full_eq_false_iff ..).mpr hRoom⟩
  | psh =>
    obtain ⟨hBusy, hIn⟩ | ⟨hBusy, hReady⟩ := h
    · refine ⟨.pshLoad (cplxIm (s.chChip.head hIn)) (cplxRe (s.chChip.head hIn)), rfl, hBusy, ?_⟩
      rw [packCplx_fields]
      exact List.head?_eq_some_head hIn
    · exact ⟨.pshEmit s.psh.p, rfl, hBusy, rfl, hReady⟩
  | qdm =>
    obtain ⟨hRun, hIn, hRoom⟩ := h
    refine ⟨.qdmStep (cplxIm (s.rxsIn.head hIn)) (cplxRe (s.rxsIn.head hIn)), rfl, hRun, ?_,
      (full_eq_false_iff ..).mpr hRoom⟩
    rw [packCplx_fields]
    exact List.head?_eq_some_head hIn
  | dct =>
    obtain ⟨hIn, hRoom⟩ := h
    exact ⟨.dctStep (s.chDem.head hIn), rfl, List.head?_eq_some_head hIn,
      (full_eq_false_iff ..).mpr hRoom⟩
  | trc =>
    obtain ⟨hNeed, hIn⟩ | ⟨hNeed, hReady⟩ := h
    · exact ⟨.trcShift (s.chDcc.head hIn), rfl, hNeed, List.head?_eq_some_head hIn⟩
    · exact ⟨.trcEmit, rfl, hNeed, hReady⟩

theorem ne_nil_of_head? {α : Type} {ch : List α} {x : α} (h : ch.head? = some x) : ch ≠ [] := by
  rintro rfl
  cases h

/-- A unit with an enabled operation has a step enabled. -/
theorem unitEnabled_of_opEnabled {i : Instr} {u : Unit5} {s : State} (hu : unitOf i = some u)
    (hi : OpEnabled i s) : unitEnabled u s := by
  cases i with
  | sprLoad sym =>
    obtain ⟨hBusy, hRun, hHead⟩ := hi
    cases hu
    exact .inl ⟨hBusy, hRun, ne_nil_of_head? hHead⟩
  | sprEmit k =>
    obtain ⟨hBusy, -, hRoom⟩ := hi
    cases hu
    exact .inr ⟨hBusy, (full_eq_false_iff ..).mp hRoom⟩
  | pshLoad im re =>
    obtain ⟨hBusy, hHead⟩ := hi
    cases hu
    exact .inl ⟨hBusy, ne_nil_of_head? hHead⟩
  | pshEmit p =>
    obtain ⟨hBusy, -, hReady⟩ := hi
    cases hu
    exact .inr ⟨hBusy, hReady⟩
  | qdmStep im re =>
    obtain ⟨hRun, hHead, hRoom⟩ := hi
    cases hu
    exact ⟨hRun, ne_nil_of_head? hHead, (full_eq_false_iff ..).mp hRoom⟩
  | dctStep ang =>
    obtain ⟨hHead, hRoom⟩ := hi
    cases hu
    exact ⟨ne_nil_of_head? hHead, (full_eq_false_iff ..).mp hRoom⟩
  | trcShift dcc =>
    obtain ⟨hNeed, hHead⟩ := hi
    cases hu
    exact .inl ⟨hNeed, ne_nil_of_head? hHead⟩
  | trcEmit =>
    cases hu
    exact .inr hi
  | _ => cases hu

/-! ## Pairs of operations -/

/-- From `s` the two operations leave each other enabled and lead to the same state in either order. -/
def Diamond (s : State) (i j : Instr) : Prop :=
  ∃ a b c, exec i s = .next a ∧ exec j s = .next b ∧ OpEnabled j a ∧ OpEnabled i b ∧
    exec j a = .next c ∧ exec i b = .next c

theorem Diamond.symm {s : State} {i j : Instr} (h : Diamond s i j) : Diamond s j i := by
  obtain ⟨a, b, c, ha, hb, hja, hib, hjac, hibc⟩ := h
  exact ⟨b, a, c, hb, ha, hib, hja, hibc, hjac⟩

/-- A channel that is not full has room after its consumer has taken a token. -/
theorem full_pop {α : Type} {s : State} {ch : List α} (h : full s ch = false) :
    full s (pop ch) = false := by
  rw [full_eq_false_iff] at *
  exact (pop_length_le ch).trans_lt h

/-- The oldest token is still the oldest after the producer has pushed one. -/
theorem head?_push_of_head? {α : Type} {ch : List α} {x : α} (v : α) (h : ch.head? = some x) :
    (push ch v).head? = some x :=
  (head?_push ch v (ne_nil_of_head? h)).trans h

/-- An enabling condition of a receive operation does not look at the transmit half. -/
theorem opEnabled_withTransmitOf {j : Instr} {s : State} (r : State) (hj : receiveStep j)
    (h : OpEnabled j s) : OpEnabled j (s.withTransmitOf r) := by
  cases j with
  | qdmStep _ _ | dctStep _ | trcShift _ | trcEmit | cmdRestartRx => exact h
  | _ => simp [receiveStep, unitOf] at hj

/-- An enabling condition of a transmit operation does not look at the receive half. -/
theorem opEnabled_withReceiveOf {i : Instr} {s : State} (r : State) (hi : transmitStep i)
    (h : OpEnabled i s) : OpEnabled i (s.withReceiveOf r) := by
  cases i with
  | sprLoad _ | sprEmit _ | pshLoad _ _ | pshEmit _ | cmdRestartTx => exact h
  | _ => simp [transmitStep, unitOf] at hi

/-- Operations of the two halves. -/
theorem diamond_transmit_receive {s : State} {i j : Instr} (hi : transmitStep i)
    (hj : receiveStep j) (hiOn : OpEnabled i s) (hjOn : OpEnabled j s) : Diamond s i j := by
  obtain ⟨a, b, c, ha, hb, hjac, hibc⟩ := transmitAndReceiveStepsCommute s i j hi hj
  refine ⟨a, b, c, ha, hb, ?_, ?_, hjac, hibc⟩
  · rw [exec_transmit_frame hi ha]
    exact opEnabled_withTransmitOf a hj hjOn
  · rw [exec_receive_frame hj hb]
    exact opEnabled_withReceiveOf b hi hiOn

/-- SPR and PSH share CH_CHIP alone. The one pair in which both change it is SPR.EMIT and PSH.LOAD, and a push and a
pop of a channel that holds a token commute. -/
theorem diamond_spr_psh {s : State} {i j : Instr} (hui : unitOf i = some .spr)
    (huj : unitOf j = some .psh) (hi : OpEnabled i s) (hj : OpEnabled j s) : Diamond s i j := by
  cases i with
  | sprLoad sym =>
    cases j with
    | pshLoad _ _ | pshEmit _ =>
      exact ⟨_, _, _, if_pos hi, if_pos hj, hj, hi, if_pos hj, if_pos hi⟩
    | _ => cases huj
  | sprEmit k =>
    cases j with
    | pshEmit p => exact ⟨_, _, _, if_pos hi, if_pos hj, hj, hi, if_pos hj, if_pos hi⟩
    | pshLoad im re =>
      have ⟨hSpr, hk, hRoom⟩ := hi
      have ⟨hPsh, hHead⟩ := hj
      have hj' := And.intro hPsh (head?_push_of_head? (tokenOf (chip s.build s.spr.sym k)) hHead)
      have hi' := And.intro hSpr (And.intro hk (full_pop hRoom))
      refine ⟨_, _, _, if_pos hi, if_pos hj, hj', hi', if_pos hj', (if_pos hi').trans ?_⟩
      rw [pop_push _ _ (ne_nil_of_head? hHead)]
    | _ => cases huj
  | _ => cases hui

/-- QDM and DCT share CH_DEM alone, which QDM pushes to and DCT pops. -/
theorem diamond_qdm_dct {s : State} {i j : Instr} (hui : unitOf i = some .qdm)
    (huj : unitOf j = some .dct) (hi : OpEnabled i s) (hj : OpEnabled j s) : Diamond s i j := by
  cases i with
  | qdmStep im re =>
    cases j with
    | dctStep ang =>
      have ⟨hRun, hSample, hRoom⟩ := hi
      have ⟨hHead, hRoomOut⟩ := hj
      have hj' := And.intro
        (head?_push_of_head? (demodulate s.build { re := re, im := im } s.qdmPrev) hHead) hRoomOut
      have hi' := And.intro hRun (And.intro hSample (full_pop hRoom))
      refine ⟨_, _, _, if_pos hi, if_pos hj, hj', hi', if_pos hj', (if_pos hi').trans ?_⟩
      rw [pop_push _ _ (ne_nil_of_head? hHead)]
    | _ => cases huj
  | _ => cases hui

/-- DCT and TRC share CH_DCC alone; TRC.SHIFT pops what DCT pushes, and TRC.EMIT does not touch it. -/
theorem diamond_dct_trc {s : State} {i j : Instr} (hui : unitOf i = some .dct)
    (huj : unitOf j = some .trc) (hi : OpEnabled i s) (hj : OpEnabled j s) : Diamond s i j := by
  cases i with
  | dctStep ang =>
    cases j with
    | trcShift dcc =>
      have ⟨hAngle, hRoom⟩ := hi
      have ⟨hNeed, hHead⟩ := hj
      have hj' := And.intro hNeed (head?_push_of_head?
        (BitVec.ofInt 17 (dcCorrected s.dctAlpha s.dctEst ang)) hHead)
      have hi' := And.intro hAngle (full_pop hRoom)
      refine ⟨_, _, _, if_pos hi, if_pos hj, hj', hi', if_pos hj', (if_pos hi').trans ?_⟩
      rw [pop_push _ _ (ne_nil_of_head? hHead)]
    | trcEmit => exact ⟨_, _, _, if_pos hi, if_pos hj, hj, hi, if_pos hj, if_pos hi⟩
    | _ => cases huj
  | _ => cases hui

/-- QDM and TRC share the sticky flags alone, and events are recorded in either order. -/
theorem diamond_qdm_trc {s : State} {i j : Instr} (hui : unitOf i = some .qdm)
    (huj : unitOf j = some .trc) (hi : OpEnabled i s) (hj : OpEnabled j s) : Diamond s i j := by
  cases i with
  | qdmStep im re =>
    cases j with
    | trcShift dcc => exact ⟨_, _, _, if_pos hi, if_pos hj, hj, hi, if_pos hj, if_pos hi⟩
    | trcEmit =>
      refine ⟨_, _, _, if_pos hi, if_pos hj, hj, hi, if_pos hj, (if_pos hi).trans ?_⟩
      rw [setFlagIf_comm _ _ .zeroMag .loopDiv, setFlagIf_comm _ _ .zeroMag .intSat]
      rfl
    | _ => cases huj
  | _ => cases hui

/-- The diamond of two different units, each pair in one order; the other is its mirror image. -/
theorem diamond_of_units {s : State} {u v : Unit5} {i j : Instr} (huv : u ≠ v)
    (hui : unitOf i = some u) (huj : unitOf j = some v) (hi : OpEnabled i s)
    (hj : OpEnabled j s) : Diamond s i j := by
  cases u with
  | spr =>
    cases v with
    | spr => exact absurd rfl huv
    | psh => exact diamond_spr_psh hui huj hi hj
    | qdm | dct | trc =>
      exact diamond_transmit_receive (.inl hui) (by simp [receiveStep, huj]) hi hj
  | psh =>
    cases v with
    | spr => exact (diamond_spr_psh huj hui hj hi).symm
    | psh => exact absurd rfl huv
    | qdm | dct | trc =>
      exact diamond_transmit_receive (.inr (.inl hui)) (by simp [receiveStep, huj]) hi hj
  | qdm =>
    cases v with
    | spr | psh =>
      exact (diamond_transmit_receive (by simp [transmitStep, huj]) (.inl hui) hj hi).symm
    | qdm => exact absurd rfl huv
    | dct => exact diamond_qdm_dct hui huj hi hj
    | trc => exact diamond_qdm_trc hui huj hi hj
  | dct =>
    cases v with
    | spr | psh =>
      exact (diamond_transmit_receive (by simp [transmitStep, huj]) (.inr (.inl hui)) hj hi).symm
    | qdm => exact (diamond_qdm_dct huj hui hj hi).symm
    | dct => exact absurd rfl huv
    | trc => exact diamond_dct_trc hui huj hi hj
  | trc =>
    cases v with
    | spr | psh =>
      exact (diamond_transmit_receive (by simp [transmitStep, huj]) (.inr (.inr (.inl hui))) hj
        hi).symm
    | qdm => exact (diamond_qdm_trc huj hui hj hi).symm
    | dct => exact (diamond_dct_trc huj hui hj hi).symm
    | trc => exact absurd rfl huv

/-- Settles O37: the operations that the two units have enabled form a diamond. -/
theorem enabledUnitStepsCommute : Obligations.EnabledUnitStepsCommute := by
  intro s u v huv hu hv
  obtain ⟨i, hui, hi⟩ := exists_opEnabled_of_unitEnabled hu
  obtain ⟨j, huj, hj⟩ := exists_opEnabled_of_unitEnabled hv
  obtain ⟨a, b, c, ha, hb, hja, hib, hjac, hibc⟩ := diamond_of_units huv hui huj hi hj
  exact ⟨a, b, c, (unitStep_eq_exec hui hi).trans ha, (unitStep_eq_exec huj hj).trans hb,
    unitEnabled_of_opEnabled huj hja, unitEnabled_of_opEnabled hui hib,
    (unitStep_eq_exec huj hja).trans hjac, (unitStep_eq_exec hui hib).trans hibc⟩

end Sys2Proof.Machine
end

section
/-! The decoder and the encoder on words (30_encoding.md R100 to R108): each takes back what the other makes. -/

namespace Sys2Proof

/-! ## The sequencing words -/

/-- A sequencing word is its bit `busy` above its counter. -/
theorem ofBool_append_fields {n : Nat} {w : BitVec (1 + n)} (hBusy : w.getLsbD n = true) :
    BitVec.ofBool true ++ w.extractLsb' 0 n = w := by
  apply BitVec.eq_of_getLsbD_eq
  intro i hi
  rw [BitVec.getLsbD_append]
  by_cases hLow : i < n
  · simp [hLow]
  · obtain rfl : i = n := by omega
    simp [hBusy]

/-! ## The host words -/

/-- The word of a host write decodes by its address (R107). -/
theorem decodeHost_packHost_true (a : HostAddr) (d : HostData) :
    decodeHost (packHost true a d) = decodeWrite a d := by
  simp [decodeHost]

/-- The word of a host read decodes to the read. -/
theorem decodeHost_packHost_false (a : HostAddr) (d : HostData) :
    decodeHost (packHost false a d) = .hostRd a d := by
  simp [decodeHost]

/-- The command codes that have an operation of their own (R108). -/
def commandCodes : List HostData := [0, 1, 2, 3]

theorem not_mem_commandCodes_iff (d : HostData) : d ∉ commandCodes ↔ 4 ≤ d.toNat := by
  simp only [commandCodes, List.mem_cons, List.not_mem_nil, or_false]
  bv_omega

/-- Any other command code is reserved (45_host_operations.md R259). -/
theorem decodeCmd_of_not_mem {d : HostData} (h : d ∉ commandCodes) : decodeCmd d = .cmdRsvd d := by
  simp only [commandCodes, List.mem_cons, List.not_mem_nil, or_false, not_or] at h
  obtain ⟨h0, h1, h2, h3⟩ := h
  simp only [decodeCmd, if_neg, *, not_false_eq_true]

/-- A write to an address that is not writable is HOST.WR.OTHER (R253). -/
theorem decodeWrite_of_not_mem {a : HostAddr} (h : a ∉ writableAddrs) (d : HostData) :
    decodeWrite a d = .hostWrOther a d := by
  simp only [writableAddrs, List.mem_cons, List.not_mem_nil, or_false, not_or] at h
  obtain ⟨h04, h08, h0C, h10, h14, h18, h1C, h20, h24⟩ := h
  simp only [decodeWrite, if_neg, *, not_false_eq_true]

/-- A command code decodes to the well-formed command that a write of the code to CMD is the word of (R108). -/
theorem encode_decodeCmd (d : HostData) :
    encode (decodeCmd d) = .h41 (packHost true 0x08 d) ∧ (decodeCmd d).wf = true := by
  by_cases hd : d ∈ commandCodes
  · simp only [commandCodes, List.mem_cons, List.not_mem_nil, or_false] at hd
    obtain rfl | rfl | rfl | rfl := hd <;> exact ⟨rfl, rfl⟩
  · rw [decodeCmd_of_not_mem hd]
    exact ⟨rfl, decide_eq_true ((not_mem_commandCodes_iff d).mp hd)⟩

/-- A host write decodes to the well-formed operation that it is the word of. -/
theorem encode_decodeWrite (a : HostAddr) (d : HostData) :
    encode (decodeWrite a d) = .h41 (packHost true a d) ∧ (decodeWrite a d).wf = true := by
  by_cases ha : a ∈ writableAddrs
  · simp only [writableAddrs, List.mem_cons, List.not_mem_nil, or_false] at ha
    obtain rfl | rfl | rfl | rfl | rfl | rfl | rfl | rfl | rfl := ha
    case inr.inl => exact encode_decodeCmd d
    all_goals exact ⟨rfl, rfl⟩
  · rw [decodeWrite_of_not_mem ha]
    exact ⟨rfl, decide_eq_true ha⟩

/-- Every host word decodes to the well-formed operation that it is the word of (R110). -/
theorem encode_decodeHost (w : HostWord) :
    encode (decodeHost w) = .h41 w ∧ (decodeHost w).wf = true := by
  rw [← packHost_fields w]
  cases hostWe w with
  | false => rw [decodeHost_packHost_false]; exact ⟨rfl, rfl⟩
  | true => rw [decodeHost_packHost_true]; exact encode_decodeWrite _ _

/-! ## The two round trips -/

/-- Settles O24: the unit operations by `decode_encode_of_unitOf`, the host operations by the address of the write;
the two rows that others cut holes into need their check of well-formedness. -/
theorem decodeOfEncodeIsTheOperation : Obligations.DecodeOfEncodeIsTheOperation := by
  intro i hi
  cases i with
  | sprLoad _ | sprEmit _ | pshLoad _ _ | pshEmit _ | qdmStep _ _ | dctStep _ | trcShift _
  | trcEmit => exact Machine.decode_encode_of_unitOf rfl
  | hostRd a d => exact congrArg Except.ok (decodeHost_packHost_false a d)
  | cmdRsvd d =>
    have hd : d ∉ commandCodes := (not_mem_commandCodes_iff d).mpr (of_decide_eq_true hi)
    exact congrArg Except.ok ((decodeHost_packHost_true 0x08 d).trans (decodeCmd_of_not_mem hd))
  | hostWrOther a d =>
    have ha : a ∉ writableAddrs := of_decide_eq_true hi
    exact congrArg Except.ok ((decodeHost_packHost_true a d).trans (decodeWrite_of_not_mem ha d))
  | cmdNop | cmdRestartTx | cmdRestartRx | cmdRestartAll | hostWrCtrl _ | hostWrStatus _
  | hostWrDctAlpha _ | hostWrTrcGainMu _ | hostWrTrcGainOmega _ | hostWrTrcOmegaMid _
  | hostWrTrcOmegaRlim _ | hostWrTrcMuInit _ =>
    exact congrArg Except.ok (decodeHost_packHost_true _ _)
  | reset => rfl

/-- Settles O25, format by format: the fields the decoder takes from a word make up the word. -/
theorem encodeOfDecodeIsTheWord : Obligations.EncodeOfDecodeIsTheWord := by
  intro key i h
  cases key with
  | s4 _ | a16 _ | b17 _ | rst => cases h; exact ⟨rfl, rfl⟩
  | c32 w => cases h; exact ⟨congrArg Key.c32 (packCplx_fields w), rfl⟩
  | x32 w => cases h; exact ⟨congrArg Key.x32 (packCplx_fields w), rfl⟩
  | d18 _ => cases h
  | h41 w => cases h; exact encode_decodeHost w
  | sq6 w =>
    by_cases hBusy : w.getLsbD 5 = true
    · cases (if_pos hBusy).symm.trans h
      exact ⟨congrArg Key.sq6 (ofBool_append_fields hBusy), rfl⟩
    · cases (if_neg hBusy).symm.trans h
  | pq3 w =>
    by_cases hBusy : w.getLsbD 2 = true
    · cases (if_pos hBusy).symm.trans h
      exact ⟨congrArg Key.pq3 (ofBool_append_fields hBusy), rfl⟩
    · cases (if_neg hBusy).symm.trans h
  | tq9 w =>
    by_cases hZero : w = 0
    · cases (if_pos hZero).symm.trans h
      exact ⟨congrArg Key.tq9 hZero.symm, rfl⟩
    · cases (if_neg hZero).symm.trans h

/-- Settles O28: each word is a closed term and the decoder computes on it. -/
theorem exampleWordsDecode : Obligations.ExampleWordsDecode := by
  unfold Obligations.ExampleWordsDecode
  decide

end Sys2Proof
end

section
/-! The bytes of a word (20_memory.md R71 item 1), in the order of log 11. -/

namespace Sys2Proof

theorem length_leBytes (n v : Nat) : (leBytes n v).length = n := by
  induction n generalizing v with
  | zero => rfl
  | succ n ih => simp [leBytes, ih]

/-- A number that fits in `n` bytes is the number of its `n` low bytes. -/
theorem leValue_leBytes {n v : Nat} (h : v < 256 ^ n) : leValue (leBytes n v) = v := by
  induction n generalizing v with
  | zero => simp only [pow_zero, Nat.lt_one_iff] at h; exact h.symm
  | succ n ih =>
    have hv : v / 256 < 256 ^ n := Nat.div_lt_of_lt_mul (by rwa [pow_succ'] at h)
    simp only [leBytes, leValue, ih hv, BitVec.toNat_ofNat]
    omega

/-- The whole bytes of a format hold its words. -/
theorem Format.two_pow_width_le (f : Format) : 2 ^ f.width ≤ 256 ^ f.byteCount := by
  cases f <;> decide

theorem Key.toNat_lt (key : Key) : key.toNat < 2 ^ key.format.width := by
  cases key with
  | rst => exact Nat.one_pos
  | s4 w | c32 w | x32 w | a16 w | b17 w | d18 w | h41 w | sq6 w | pq3 w | tq9 w => exact w.isLt

/-- A word is the word of its format with its number. -/
theorem keyOfNat_toNat (key : Key) : keyOfNat key.format key.toNat = key := by
  cases key <;> simp [Key.format, Key.toNat, keyOfNat]

/-- Decoding the bytes of a word in the word's format is decoding the word. -/
theorem decodeBytes_leBytes (key : Key) :
    decodeBytes key.format (leBytes key.format.byteCount key.toNat) = decode key := by
  have hFits := key.toNat_lt
  have hValue := leValue_leBytes (hFits.trans_le key.format.two_pow_width_le)
  simp [decodeBytes, length_leBytes, hValue, hFits, keyOfNat_toNat]

/-- The word of an operation has the format of the operation's row. -/
theorem format_encode (i : Instr) : (encode i).format = i.format := by
  cases i <;> rfl

/-- Settles O26: the bytes give the word back, and the word gives the operation back. -/
theorem bytesOfAnOperationDecodeToIt : Obligations.BytesOfAnOperationDecodeToIt := by
  intro i hi
  rw [← format_encode i, encodeBytes, decodeBytes_leBytes]
  exact decodeOfEncodeIsTheOperation i hi

/-- What bytes decode to is what some word decodes to. -/
theorem exists_key_of_decodeBytes {f : Format} {bs : List Byte} {i : Instr}
    (h : decodeBytes f bs = .ok i) : ∃ key, decode key = .ok i := by
  unfold decodeBytes at h
  split_ifs at h
  exact ⟨_, h⟩

/-- What a bare word is read as is what some word decodes to. -/
theorem exists_key_of_decodeTableWord {nbits w : Nat} {i : Instr}
    (h : decodeTableWord nbits w = some i) : ∃ key, decode key = .ok i := by
  obtain ⟨f, -, hf⟩ := List.exists_of_findSome?_eq_some h
  split_ifs at hf
  cases hBytes : decodeBytes f (leBytes f.byteCount w) with
  | error e => rw [hBytes] at hf; cases hf
  | ok j =>
    rw [hBytes] at hf
    cases hf
    exact exists_key_of_decodeBytes hBytes

end Sys2Proof
end

section
/-! The rows of the host operations (30_encoding.md R107): which of them match a word, and which is the word's own. -/

namespace Sys2Proof

/-- The mask of the rows told by the write bit alone. -/
abbrev writeBitMask : HostWord := 0x10000000000

/-- The mask of the rows told by the write bit and the address. -/
abbrev addressMask : HostWord := 0x1FF00000000

/-- The mask of the rows told by the whole word. -/
abbrev wholeMask : HostWord := 0x1FFFFFFFFFF

/-- The row told by the write bit alone: HOST.RD or HOST.WR.OTHER. -/
def writeBitRow (we : Bool) : HostWord × HostWord := (writeBitMask, packHost we 0 0)

/-- The row of the writes to an address. -/
def addressRow (a : HostAddr) : HostWord × HostWord := (addressMask, packHost true a 0)

/-- The row of the write of one code to CMD. -/
def commandRow (d : HostData) : HostWord × HostWord := (wholeMask, packHost true 0x08 d)

/-- The table in its order, told by these rows. -/
theorem hostRows_eq :
    hostRows = [writeBitRow false, addressRow 0x04] ++ commandCodes.map commandRow ++
      writableAddrs.tail.map addressRow ++ [writeBitRow true] := rfl

theorem mem_hostRows_cases {q : HostWord × HostWord} (hq : q ∈ hostRows) :
    (∃ we, q = writeBitRow we) ∨ (∃ a ∈ writableAddrs, q = addressRow a) ∨
      ∃ d ∈ commandCodes, q = commandRow d := by
  simp only [hostRows_eq, List.mem_append, List.mem_cons, List.mem_map, List.not_mem_nil,
    or_false] at hq
  obtain (((rfl | rfl) | ⟨d, hd, rfl⟩) | ⟨a, ha, rfl⟩) | rfl := hq
  · exact .inl ⟨false, rfl⟩
  · exact .inr (.inl ⟨0x04, List.mem_cons_self, rfl⟩)
  · exact .inr (.inr ⟨d, hd, rfl⟩)
  · exact .inr (.inl ⟨a, List.mem_of_mem_tail ha, rfl⟩)
  · exact .inl ⟨true, rfl⟩

/-! ## Which rows match a word -/

theorem writeBitRow_matches_iff (w : HostWord) (we : Bool) :
    w &&& (writeBitRow we).1 = (writeBitRow we).2 ↔ hostWe w = we := by
  have hMask : writeBitMask = BitVec.twoPow 41 40 := by decide
  have hMasked : w &&& writeBitMask = packHost (hostWe w) 0 0 := by
    rw [hMask, BitVec.and_twoPow, ← hostWe]
    cases hostWe w <;> decide
  change w &&& writeBitMask = packHost we 0 0 ↔ _
  rw [hMasked]
  exact ⟨fun h => by simpa using congrArg hostWe h, fun h => by rw [h]⟩

theorem addressRow_matches_iff (w : HostWord) (a : HostAddr) :
    w &&& (addressRow a).1 = (addressRow a).2 ↔ hostWe w = true ∧ hostAddrOf w = a :=
  addr_mask_iff w a

theorem commandRow_matches_iff (w : HostWord) (d : HostData) :
    w &&& (commandRow d).1 = (commandRow d).2 ↔ w = packHost true 0x08 d := by
  have hMask : wholeMask = BitVec.allOnes 41 := by decide
  change w &&& wholeMask = packHost true 0x08 d ↔ _
  rw [hMask, BitVec.and_allOnes]

/-- The rows that match a word: that of its write bit, that of its address where the address is writable, and that of
its command where the code has one. -/
theorem matching_row_cases {we : Bool} {a : HostAddr} {d : HostData} {q : HostWord × HostWord}
    (hq : q ∈ hostRows) (h : packHost we a d &&& q.1 = q.2) :
    q = writeBitRow we ∨ (we = true ∧ a ∈ writableAddrs ∧ q = addressRow a) ∨
      (we = true ∧ (a = 0x08 ∧ d ∈ commandCodes) ∧ q = commandRow d) := by
  obtain ⟨b, rfl⟩ | ⟨b, hb, rfl⟩ | ⟨c, hc, rfl⟩ := mem_hostRows_cases hq
  · rw [writeBitRow_matches_iff, hostWe_packHost] at h
    exact .inl (h ▸ rfl)
  · rw [addressRow_matches_iff, hostWe_packHost, hostAddrOf_packHost] at h
    obtain ⟨hWe, rfl⟩ := h
    exact .inr (.inl ⟨hWe, hb, rfl⟩)
  · rw [commandRow_matches_iff] at h
    have hWe : we = true := by simpa using congrArg hostWe h
    have ha : a = 0x08 := by simpa using congrArg hostAddrOf h
    obtain rfl : d = c := by simpa using congrArg hostDataOf h
    exact .inr (.inr ⟨hWe, ⟨ha, hc⟩, rfl⟩)

/-! ## The row of the operation -/

theorem hostRowOf_decodeCmd {d : HostData} (h : d ∈ commandCodes) :
    hostRowOf (decodeCmd d) = some (commandRow d) := by
  simp only [commandCodes, List.mem_cons, List.not_mem_nil, or_false] at h
  obtain rfl | rfl | rfl | rfl := h <;> rfl

/-- The row of a write to a writable address, the commands with a row of their own apart. -/
theorem hostRowOf_decodeWrite {a : HostAddr} {d : HostData} (ha : a ∈ writableAddrs)
    (hCmd : ¬ (a = 0x08 ∧ d ∈ commandCodes)) :
    hostRowOf (decodeWrite a d) = some (addressRow a) := by
  simp only [writableAddrs, List.mem_cons, List.not_mem_nil, or_false] at ha
  obtain rfl | rfl | rfl | rfl | rfl | rfl | rfl | rfl | rfl := ha
  case inr.inl =>
    exact congrArg hostRowOf (decodeCmd_of_not_mem fun hd => hCmd ⟨rfl, hd⟩)
  all_goals rfl

theorem hostRowOf_mem {i : Instr} {r : HostWord × HostWord} (h : hostRowOf i = some r) :
    r ∈ hostRows := by
  cases i <;> cases h <;> decide

/-- Settles O27: a read has one matching row; a write has the row of its command, else the row of its address, else
HOST.WR.OTHER, whose masks have 41, 9 and 1 bits. -/
theorem hostRowWithTheMostMaskBitsApplies : Obligations.HostRowWithTheMostMaskBitsApplies := by
  have hAddress : maskOnes writeBitMask < maskOnes addressMask := by decide
  have hWhole : maskOnes addressMask < maskOnes wholeMask := by decide
  intro w
  rw [← packHost_fields w]
  generalize hostWe w = we, hostAddrOf w = a, hostDataOf w = d
  cases we with
  | false =>
    have hRow : hostRowOf (decodeHost (packHost false a d)) = some (writeBitRow false) := by
      rw [decodeHost_packHost_false]
      rfl
    refine ⟨_, hostRowOf_mem hRow, hRow, (writeBitRow_matches_iff ..).mpr (by simp), ?_⟩
    intro q hq hMatch
    obtain rfl | ⟨hWe, -⟩ | ⟨hWe, -⟩ := matching_row_cases hq hMatch
    · exact .inl rfl
    · cases hWe
    · cases hWe
  | true =>
    rw [decodeHost_packHost_true]
    by_cases hCmd : a = 0x08 ∧ d ∈ commandCodes
    · obtain ⟨rfl, hd⟩ := hCmd
      have hRow : hostRowOf (decodeWrite 0x08 d) = some (commandRow d) := hostRowOf_decodeCmd hd
      refine ⟨_, hostRowOf_mem hRow, hRow, (commandRow_matches_iff ..).mpr rfl, ?_⟩
      intro q hq hMatch
      obtain rfl | ⟨-, -, rfl⟩ | ⟨-, -, rfl⟩ := matching_row_cases hq hMatch
      · exact .inr (hAddress.trans hWhole)
      · exact .inr hWhole
      · exact .inl rfl
    by_cases ha : a ∈ writableAddrs
    · have hRow := hostRowOf_decodeWrite ha hCmd
      refine ⟨_, hostRowOf_mem hRow, hRow, (addressRow_matches_iff ..).mpr (by simp), ?_⟩
      intro q hq hMatch
      obtain rfl | ⟨-, -, rfl⟩ | ⟨-, hCmd', -⟩ := matching_row_cases hq hMatch
      · exact .inr hAddress
      · exact .inl rfl
      · exact absurd hCmd' hCmd
    · have hRow : hostRowOf (decodeWrite a d) = some (writeBitRow true) := by
        rw [decodeWrite_of_not_mem ha]
        rfl
      refine ⟨_, hostRowOf_mem hRow, hRow, (writeBitRow_matches_iff ..).mpr (by simp), ?_⟩
      intro q hq hMatch
      obtain rfl | ⟨-, ha', -⟩ | ⟨-, hCmd', -⟩ := matching_row_cases hq hMatch
      · exact .inl rfl
      · exact absurd ha' ha
      · exact absurd hCmd' hCmd

end Sys2Proof
end

section
/-! A step and the operation it runs (30_encoding.md R105, R107), under the model's choices of logs 1, 2 and 10. -/

namespace Sys2Proof.Machine

/-- A unit operation that is not enabled waits (60_exceptions.md R338). -/
theorem exec_of_not_opEnabled {i : Instr} {u : Unit5} {s : State} (hu : unitOf i = some u)
    (hi : ¬ OpEnabled i s) : exec i s = .next s := by
  cases i with
  | sprLoad _ | sprEmit _ | pshLoad _ _ | pshEmit _ | qdmStep _ _ | dctStep _ | trcShift _
  | trcEmit => exact if_neg hi
  | _ => cases hu

/-- Settles O10: an enabled operation is the selected one, so one that is not selected waits. -/
theorem unselectedUnitOperationChangesNothing :
    Obligations.UnselectedUnitOperationChangesNothing := by
  intro i u s hu hKey
  exact exec_of_not_opEnabled hu fun hi => hKey (unitKey_of_opEnabled hu hi)

/-- Settles O29: the head of the agenda is the turn taken. -/
theorem stepRunsTheDecodedOperation : Obligations.StepRunsTheDecodedOperation := by
  intro s turn rest key i hAgenda hFetch hDecode
  simp [step, takeTurn_cons s turn rest hAgenda, stepTurn, hFetch, hDecode]

/-- A placed operation's word is what its agent fetches in the turn placed with it (log 10). -/
theorem place_fetch (i : Instr) (s : State) :
    ∃ turn, (place i s).agenda = turn :: s.agenda ∧
      fetch turn { place i s with agenda := s.agenda } = some (encode i) := by
  cases i with
  | sprLoad _ | sprEmit _ => exact ⟨.unit .spr, rfl, rfl⟩
  | pshLoad _ _ | pshEmit _ => exact ⟨.unit .psh, rfl, rfl⟩
  | qdmStep _ _ => exact ⟨.unit .qdm, rfl, rfl⟩
  | dctStep _ => exact ⟨.unit .dct, rfl, rfl⟩
  | trcShift dcc =>
    have hNeed : (if s.trc.need = 0 then needAtStart else s.trc.need) ≠ 0 := by
      split_ifs with h
      · decide
      · exact h
    exact ⟨.unit .trc, rfl, if_neg hNeed⟩
  | trcEmit => exact ⟨.unit .trc, rfl, rfl⟩
  | reset => exact ⟨.rst, rfl, rfl⟩
  | _ => exact ⟨.host _, rfl, rfl⟩

/-- Settles O30: the operation read from a word is well formed, so its own word, which placing it makes the next one
fetched, decodes to it. -/
theorem placedWordIsTheNextOperation : Obligations.PlacedWordIsTheNextOperation := by
  intro s nbits w i hWord
  obtain ⟨key, hKey⟩ := exists_key_of_decodeTableWord hWord
  obtain ⟨-, hWf⟩ := encodeOfDecodeIsTheWord key i hKey
  obtain ⟨turn, hAgenda, hFetch⟩ := place_fetch i s
  have hPlaced : s.withFetchWord nbits w = place i s := by simp [State.withFetchWord, hWord]
  rw [hPlaced]
  exact stepRunsTheDecodedOperation _ turn _ _ i hAgenda hFetch
    (decodeOfEncodeIsTheOperation i hWf)

end Sys2Proof.Machine
end

section
/-! The widths of TRC.EMIT (44_timing_recovery.md R214), and the sequencing invariants (40_chip_spreader.md R134,
41_pulse_shaper.md R154). -/

namespace Sys2Proof.Machine

/-! ## The widths of TRC.EMIT -/

/-- The interpolated value is limited to 17 bits (R208). -/
theorem emitY_bounds (s : State) : -65536 ≤ emitY s ∧ emitY s ≤ 65535 := by
  have h := clamp_bounds (interpRaw s.build s.trc.win s.trc.mu) (-65536) 65535 (by decide)
  rwa [← sat_17] at h

/-- A decided symbol times a number is the number or its negative. -/
theorem signValue_mul (d : Sign) (y : Int) : signValue d * y = y ∨ signValue d * y = -y := by
  cases d <;> simp [signValue]

/-- The error term is a difference of two signed 17-bit numbers (R210). -/
theorem emitError_bounds (s : State) : -131072 ≤ emitError s ∧ emitError s ≤ 131072 := by
  have hy := emitY_bounds s
  have hyPrev₁ := s.trc.yPrev.le_toInt
  have hyPrev₂ := s.trc.yPrev.toInt_lt
  have hNow := signValue_mul s.trc.dPrev (emitY s)
  have hPrev := signValue_mul (slice (emitY s)) s.trc.yPrev.toInt
  unfold emitError timingError
  omega

/-- A correction of a state's loop is at most 2^28 (R214 on `go` and `gm`). -/
theorem correction_emitError_bounds (gain : Gain) (s : State) :
    -268435456 ≤ correction gain (emitError s) ∧ correction gain (emitError s) ≤ 268435456 := by
  obtain ⟨he₁, he₂⟩ := emitError_bounds s
  have hg := gain.isLt
  have hLow : (gain.toNat : Int) * -131072 ≤ gain.toNat * emitError s :=
    mul_le_mul_of_nonneg_left he₁ (by positivity)
  have hHigh : (gain.toNat : Int) * emitError s ≤ gain.toNat * 131072 :=
    mul_le_mul_of_nonneg_left he₂ (by positivity)
  rw [correction, shr_13]
  omega

/-- The limit on the period is a fraction of its nominal value (R212 `lim`). -/
theorem periodLimit_bounds (mid : Mid) (rlim : Gain) :
    0 ≤ periodLimit mid rlim ∧ periodLimit mid rlim ≤ mid.toNat := by
  have hr := rlim.isLt
  have hNonneg : 0 ≤ (mid.toNat : Int) * rlim.toNat := by positivity
  have hLe : (mid.toNat : Int) * rlim.toNat ≤ mid.toNat * 16777216 :=
    mul_le_mul_of_nonneg_left (by omega) (by positivity)
  rw [periodLimit, shr_24]
  omega

/-- The bounded period lies between 0 and twice its nominal value, so it fits 32 bits (R214 on `om2`). -/
theorem boundedPeriod_bounds (mid : Mid) (rlim : Gain) (om1 : Int) :
    0 ≤ boundedPeriod mid rlim om1 ∧ boundedPeriod mid rlim om1 ≤ 2 * mid.toNat := by
  have hLimit := periodLimit_bounds mid rlim
  dsimp only [boundedPeriod]
  split_ifs <;> omega

/-- The next position is below 2^24 + 2^32 + 2^28, which is 273 samples (R214 on `t`). -/
theorem emitPosition_bounds (s : State) :
    0 ≤ emitPosition s ∧ emitPosition s < 273 * 16777216 := by
  have hMu := s.trc.mu.isLt
  have hMid := s.trcOmegaMid.isLt
  have hPeriod := boundedPeriod_bounds s.trcOmegaMid s.trcOmegaRlim (emitPeriodRaw s)
  have hCorrection := correction_emitError_bounds s.trcGainMu s
  unfold emitPosition emitPositionRaw emitPeriod
  split_ifs <;> omega

/-- TRC.EMIT asks for at most 272 samples (R214 on `need`). -/
theorem emitNeed_le (s : State) : (BitVec.ofInt 9 (shr (emitPosition s) 24)).toNat ≤ 272 := by
  have hPosition := emitPosition_bounds s
  have hNeed : 0 ≤ shr (emitPosition s) 24 ∧ shr (emitPosition s) 24 ≤ 272 := by
    rw [shr_24]
    omega
  have hKept := toNat_ofInt_of_mem (w := 9) (shr (emitPosition s) 24) hNeed.1 (by omega)
  omega

/-- TRC.SHIFT, which is enabled only where samples are needed, counts down (R211). -/
theorem shiftNeed_le {need : BitVec 9} (hDue : need ≠ 0) (hNeed : need.toNat ≤ 272) :
    (need - 1).toNat ≤ 272 := by
  bv_omega

/-! ## The sequencing invariants -/

/-- An idle SPR counts from 0 (R134). -/
def Spr.idleOk (r : Spr) : Prop := r.busy = false → r.k = 0

/-- An idle PSH counts from 0 (R154). -/
def Psh.idleOk (r : Psh) : Prop := r.busy = false → r.p = 0

theorem sequencingOk_iff (s : State) :
    sequencingOk s ↔ s.spr.idleOk ∧ s.psh.idleOk ∧ s.trc.need.toNat ≤ 272 := Iff.rfl

/-- SPR.EMIT clears `busy` and `k` in the same step, and only then clears `busy` (R133). -/
theorem Spr.idleOk_emit {r : Spr} (hBusy : r.busy = true) (k : BitVec 5) :
    Spr.idleOk (if k = 31 then { r with k := 0, busy := false } else { r with k := k + 1 }) := by
  split_ifs
  · exact fun _ => rfl
  · exact fun hIdle => absurd hIdle (by simp [hBusy])

/-- PSH.EMIT clears `busy` and `p` in the same step, and only then clears `busy` (R153). -/
theorem Psh.idleOk_emit {r : Psh} (hBusy : r.busy = true) (p : BitVec 2) :
    Psh.idleOk (if p = 3 then { r with p := 0, busy := false } else { r with p := p + 1 }) := by
  split_ifs
  · exact fun _ => rfl
  · exact fun hIdle => absurd hIdle (by simp [hBusy])

/-- Every operation keeps the sequencing invariants. -/
theorem exec_keeps_sequencingOk {i : Instr} {s t : State} (hs : sequencingOk s)
    (h : exec i s = .next t) : sequencingOk t := by
  have ⟨hSpr, hPsh, hNeed⟩ := (sequencingOk_iff s).mp hs
  have hStart : needAtStart.toNat ≤ 272 := by decide
  rw [sequencingOk_iff]
  cases hu : unitOf i with
  | none =>
    obtain ⟨-, rfl⟩ | ⟨-, rfl⟩ | ⟨-, rfl⟩ | ⟨-, rfl⟩ | hf := exec_host_cases hu h
    · exact ⟨fun _ => rfl, fun _ => rfl, hNeed⟩
    · exact ⟨hSpr, hPsh, hStart⟩
    · exact ⟨fun _ => rfl, fun _ => rfl, hStart⟩
    · exact ⟨fun _ => rfl, fun _ => rfl, hStart⟩
    · rw [hf]
      exact hs
  | some u =>
    cases i with
    | sprLoad sym =>
      obtain ⟨-, rfl⟩ | ⟨-, rfl⟩ := execSprLoad_cases h
      · exact ⟨fun _ => rfl, hPsh, hNeed⟩
      · exact hs
    | sprEmit k =>
      obtain ⟨⟨hBusy, -, -⟩, rfl⟩ | ⟨-, rfl⟩ := execSprEmit_cases h
      · exact ⟨Spr.idleOk_emit hBusy k, hPsh, hNeed⟩
      · exact hs
    | pshLoad im re =>
      obtain ⟨-, rfl⟩ | ⟨-, rfl⟩ := execPshLoad_cases h
      · exact ⟨hSpr, fun _ => rfl, hNeed⟩
      · exact hs
    | pshEmit p =>
      obtain ⟨⟨hBusy, -, -⟩, rfl⟩ | ⟨-, rfl⟩ := execPshEmit_cases h
      · exact ⟨hSpr, Psh.idleOk_emit hBusy p, hNeed⟩
      · exact hs
    | qdmStep im re => obtain ⟨-, rfl⟩ | ⟨-, rfl⟩ := execQdmStep_cases h <;> exact hs
    | dctStep ang => obtain ⟨-, rfl⟩ | ⟨-, rfl⟩ := execDctStep_cases h <;> exact hs
    | trcShift dcc =>
      obtain ⟨⟨hDue, -⟩, rfl⟩ | ⟨-, rfl⟩ := execTrcShift_cases h
      · exact ⟨hSpr, hPsh, shiftNeed_le hDue hNeed⟩
      · exact hs
    | trcEmit =>
      obtain ⟨-, rfl⟩ | ⟨-, rfl⟩ := execTrcEmit_cases h
      · exact ⟨hSpr, hPsh, emitNeed_le s⟩
      · exact hs
    | _ => cases hu

/-- A turn keeps the sequencing invariants: the environment does not reach the counters, and every operation keeps
them. -/
theorem stepTurn_keeps_sequencingOk {turn : Turn} {s t : State} (hs : sequencingOk s)
    (h : stepTurn turn s = .next t) : sequencingOk t := by
  obtain ⟨-, he⟩ | ⟨key, i, -, -, he⟩ := stepTurn_cases turn s <;> rw [he] at h
  · cases h
    rw [environment_frame]
    exact hs
  · exact exec_keeps_sequencingOk hs h

/-- Settles O32: taking the turn leaves the counters as they are, and the turn's step keeps the invariants. -/
theorem stepKeepsTheSequencingInvariant : Obligations.StepKeepsTheSequencingInvariant := by
  intro s t hs h
  have hTaken : sequencingOk (takeTurn s).2 := by
    rw [takeTurn_frame]
    exact hs
  exact stepTurn_keeps_sequencingOk hTaken h

end Sys2Proof.Machine
end

section
/-! The two operations of SPR and the words that select them (40_chip_spreader.md R131 to R133). -/

namespace Sys2Proof.Machine

/-- A turn given to a unit runs the operation that the unit's word selects, enabled or not (30_encoding.md R105). -/
theorem stepTurn_of_unitKey {i : Instr} {u : Unit5} {s : State} (hu : unitOf i = some u)
    (hKey : unitKey u s = some (encode i)) : stepTurn (.unit u) s = exec i s := by
  have hFetch : fetch (.unit u) s = some (encode i) := hKey
  simp [stepTurn, hFetch, decode_encode_of_unitOf hu]

/-- An idle SPR is selected by the oldest symbol (R105). -/
theorem unitKey_spr_of_idle {s : State} {sym : Sym} (hIdle : s.spr.busy = false)
    (hHead : s.symIn.head? = some sym) : unitKey .spr s = some (encode (.sprLoad sym)) := by
  simp [unitKey, encode, hIdle, hHead]

/-- A busy SPR is selected by its counter (R105). -/
theorem unitKey_spr_of_busy {s : State} (hBusy : s.spr.busy = true) :
    unitKey .spr s = some (encode (.sprEmit s.spr.k)) := by
  simp [unitKey, encode, sprWord, hBusy]

/-- SPR.LOAD where it is enabled. -/
theorem exec_sprLoad_enabled {s : State} {sym : Sym} (h : SprLoadEnabled sym s) :
    exec (.sprLoad sym) s =
      .next { s with spr := { busy := true, sym := sym, k := 0 }, symIn := pop s.symIn } :=
  if_pos h

/-- Settles O1: the oldest symbol selects SPR.LOAD, and TX_RUN is the rest of its enabling condition. -/
theorem sprLoadTakesTheSymbol : Obligations.SprLoadTakesTheSymbol := by
  intro s sym rest hIn hIdle
  have hHead : s.symIn.head? = some sym := by simp [hIn]
  refine ⟨stepTurn_of_unitKey rfl (unitKey_spr_of_idle hIdle hHead), fun hRun => ?_, fun hStop => ?_⟩
  · rw [exec_sprLoad_enabled ⟨hIdle, hRun, hHead⟩, hIn, pop_cons]
  · refine exec_of_not_opEnabled (u := .spr) rfl fun ⟨_, hRun, _⟩ => ?_
    rw [txRun, hStop] at hRun
    cases hRun

/-- The word of CHIP_ROM as an entry of a list. -/
theorem chipWord_eq_getD (b : Build) (sym : Sym) :
    chipWord b sym = b.chipRom.toList.getD sym.toNat 0 := by
  have hLt : sym.toNat < b.chipRom.toList.length := by
    rw [Vector.length_toList]
    exact sym.isLt
  rw [List.getD_eq_getElem _ _ hLt, Vector.getElem_toList]
  rfl

/-- The four tokens of a chip: its ROM bit gives the sign, the parity of `k` the axis (R131, 30_encoding.md R102). -/
theorem tokenOf_chip (b : Build) (sym : Sym) (k : BitVec 5) :
    tokenOf (chip b sym k) =
      if (b.chipRom.toList.getD sym.toNat 0).toNat / 2 ^ k.toNat % 2 = 1 then
        if k.toNat % 2 = 0 then 0x00004000 else 0x40000000
      else if k.toNat % 2 = 0 then 0x0000C000 else 0xC0000000 := by
  have hBit : (chipWord b sym).getLsbD k.toNat =
      decide ((b.chipRom.toList.getD sym.toNat 0).toNat / 2 ^ k.toNat % 2 = 1) := by
    rw [← chipWord_eq_getD]
    exact Nat.testBit_eq_decide_div_mod_eq
  simp only [chip, hBit, decide_eq_true_eq]
  split_ifs <;> rfl

/-- SPR.EMIT where it is enabled. -/
theorem exec_sprEmit_enabled {s : State} {k : BitVec 5} (h : SprEmitEnabled k s) :
    exec (.sprEmit k) s =
      .next { s with
        chChip := push s.chChip (tokenOf (chip s.build s.spr.sym k))
        spr := if k = 31 then { s.spr with k := 0, busy := false } else { s.spr with k := k + 1 } } :=
  if_pos h

/-- The registers of a busy SPR after SPR.EMIT, in one form for every `k` (R133). -/
theorem spr_emitted {r : Spr} (hBusy : r.busy = true) (k : BitVec 5) :
    (if k = 31 then { r with k := 0, busy := false } else { r with k := k + 1 }) =
      { busy := decide (k ≠ 31), sym := r.sym, k := if k = 31 then 0 else k + 1 : Spr } := by
  split_ifs with hk
  · rw [decide_eq_false (not_not_intro hk)]
  · rw [decide_eq_true hk, hBusy]

/-- Settles O2: the counter selects SPR.EMIT, and room in CH_CHIP is the rest of its enabling condition. -/
theorem sprEmitPushesTheChip : Obligations.SprEmitPushesTheChip := by
  rintro s _ hBusy rfl
  refine ⟨stepTurn_of_unitKey rfl (unitKey_spr_of_busy hBusy), fun hRoom => ?_, fun hFull => ?_⟩
  · rw [exec_sprEmit_enabled ⟨hBusy, rfl, (full_eq_false_iff ..).mpr hRoom⟩, tokenOf_chip,
      spr_emitted hBusy, push]
  · refine exec_of_not_opEnabled (u := .spr) rfl fun ⟨_, _, hRoom⟩ => ?_
    exact absurd ((full_eq_false_iff ..).mp hRoom) (Nat.not_lt.mpr hFull)

end Sys2Proof.Machine
end

section
/-! One symbol through SPR and PSH (40_chip_spreader.md R130, R134; 41_pulse_shaper.md R156): first the turns of each
unit, then runs of turns. -/

namespace Sys2Proof.Machine

/-! ## A unit's turn -/

/-- The word a unit fetches decodes to an operation of that unit (30_encoding.md R105). -/
theorem unitOf_of_unitKey {u : Unit5} {s : State} {key : Key} {i : Instr}
    (hKey : unitKey u s = some key) (hi : decode key = .ok i) : unitOf i = some u := by
  cases u with
  | spr | psh | trc =>
    rw [unitKey] at hKey
    split at hKey
    · cases hKey
      rw [decode] at hi
      split at hi <;> cases hi
      rfl
    · obtain ⟨x, -, rfl⟩ := Option.map_eq_some_iff.mp hKey
      cases hi
      rfl
  | qdm | dct =>
    obtain ⟨x, -, rfl⟩ := Option.map_eq_some_iff.mp hKey
    cases hi
    rfl

/-- A unit with no step enabled waits: it has no token, or the operation of its word is not enabled. -/
theorem unitStep_of_not_unitEnabled {u : Unit5} {s : State} (h : ¬ unitEnabled u s) :
    unitStep u s = .next s := by
  obtain ⟨-, he⟩ | ⟨key, i, hKey, hi, he⟩ := stepTurn_cases (.unit u) s
  · exact he
  · have hu := unitOf_of_unitKey hKey hi
    exact he.trans (exec_of_not_opEnabled hu fun hOn => h (unitEnabled_of_opEnabled hu hOn))

theorem runUnits_cons {u : Unit5} {s t : State} (h : unitStep u s = .next t) (us : List Unit5) :
    runUnits (u :: us) s = runUnits us t := by
  simp only [runUnits, h]

/-- Turns given in two parts are the turns given at once. -/
theorem runUnits_append {us : List Unit5} {s t : State} (h : runUnits us s = .next t)
    (vs : List Unit5) : runUnits (us ++ vs) s = runUnits vs t := by
  induction us generalizing s with
  | nil =>
    cases h
    rfl
  | cons u us ih =>
    cases hStep : unitStep u s with
    | next r =>
      rw [runUnits_cons hStep] at h
      rw [List.cons_append, runUnits_cons hStep]
      exact ih h
    | fault f => exact nomatch f
    | refused r => simp [runUnits, hStep] at h

/-! ## SPR with some of a symbol's chips sent -/

/-- The registers of SPR when `n` of the 32 chips of `sym` have been sent (10_state.md R40). -/
def sprAfter (sym : Sym) (n : Nat) : Spr :=
  { busy := decide (n < 32), sym := sym, k := BitVec.ofNat 5 n }

/-- Chip `n` of a symbol as a token (R131). -/
def chipToken (b : Build) (sym : Sym) (n : Nat) : CplxWord := tokenOf (chip b sym (BitVec.ofNat 5 n))

theorem sprAfter_busy_iff (sym : Sym) (n : Nat) : (sprAfter sym n).busy = true ↔ n < 32 :=
  decide_eq_true_iff

/-- SPR.EMIT of chip `n` leaves one more chip sent (R133). -/
theorem sprAfter_succ (sym : Sym) {n : Nat} (hn : n < 32) :
    { busy := decide (BitVec.ofNat 5 n ≠ 31), sym := sym
      k := if BitVec.ofNat 5 n = 31 then 0 else BitVec.ofNat 5 n + 1 : Spr } =
      sprAfter sym (n + 1) := by
  have hLast : BitVec.ofNat 5 n = 31 ↔ n = 31 := by
    rw [← BitVec.toNat_inj, BitVec.toNat_ofNat, Nat.mod_eq_of_lt hn]
    rfl
  simp only [sprAfter, hLast, ne_eq]
  by_cases h31 : n = 31
  · subst h31
    rfl
  · have hRest : n + 1 < 32 := by omega
    simp [h31, hRest, BitVec.ofNat_add]

theorem chipTokens_take_succ (b : Build) (sym : Sym) {n : Nat} (hn : n < 32) :
    (chipTokens b sym).take (n + 1) = (chipTokens b sym).take n ++ [chipToken b sym n] := by
  simp [chipTokens, chipToken, List.take_add_one, hn]

theorem chipTokens_take_all (b : Build) (sym : Sym) :
    (chipTokens b sym).take 32 = chipTokens b sym :=
  List.take_of_length_le (by simp [chipTokens])

/-- The turn in which SPR takes the oldest symbol: none of its chips is sent yet (R132). -/
theorem unitStep_spr_load {s : State} {sym : Sym} {rest : List Sym} (hIdle : s.spr.busy = false)
    (hRun : txRun s = true) (hIn : s.symIn = sym :: rest) :
    unitStep .spr s = .next { s with spr := sprAfter sym 0, symIn := rest } := by
  have hOn : SprLoadEnabled sym s := ⟨hIdle, hRun, by rw [hIn]; rfl⟩
  rw [unitStep_eq_exec (i := .sprLoad sym) rfl hOn, exec_sprLoad_enabled hOn, hIn]
  rfl

/-- The turn in which SPR sends chip `n` (R133). -/
theorem unitStep_spr_emit {s : State} {sym : Sym} {n : Nat} (hSpr : s.spr = sprAfter sym n)
    (hn : n < 32) (hRoom : s.chChip.length < s.build.chDepth) :
    unitStep .spr s = .next { s with
      spr := sprAfter sym (n + 1), chChip := s.chChip ++ [chipToken s.build sym n] } := by
  have hBusy : s.spr.busy = true := by rw [hSpr, sprAfter_busy_iff]; exact hn
  have hOn : SprEmitEnabled (BitVec.ofNat 5 n) s :=
    ⟨hBusy, by rw [hSpr]; rfl, (full_eq_false_iff ..).mpr hRoom⟩
  have hSym : s.spr.sym = sym := by rw [hSpr]; rfl
  rw [unitStep_eq_exec (i := .sprEmit _) rfl hOn, exec_sprEmit_enabled hOn, spr_emitted hBusy, hSym,
    sprAfter_succ sym hn]
  rfl

/-- `n` turns of SPR send the first `n` chips where CH_CHIP has room for them. -/
theorem runUnits_spr_emits {s : State} {sym : Sym} (hSpr : s.spr = sprAfter sym 0) {n : Nat}
    (hn : n ≤ 32) (hRoom : s.chChip.length + n ≤ s.build.chDepth) :
    runUnits (List.replicate n .spr) s = .next { s with
      spr := sprAfter sym n, chChip := s.chChip ++ (chipTokens s.build sym).take n } := by
  induction n with
  | zero => simp [runUnits, ← hSpr]
  | succ n ih =>
    have hLen : ((chipTokens s.build sym).take n).length ≤ n := List.length_take_le ..
    rw [List.replicate_succ', runUnits_append (ih (by omega) (by omega))]
    refine (runUnits_cons (unitStep_spr_emit rfl hn ?_) []).trans ?_
    · rw [List.length_append]
      exact lt_of_lt_of_le (by omega) hRoom
    · rw [chipTokens_take_succ _ _ hn, ← List.append_assoc]
      rfl

/-! ## PSH with some of a chip's samples sent -/

/-- The registers of PSH when `n` of the 4 samples of a chip have been sent (10_state.md R41). -/
def pshAfter (c : Cplx) (n : Nat) : Psh :=
  { busy := decide (n < 4), hold := c, p := BitVec.ofNat 2 n }

/-- Sample `n` of a chip as a token (41_pulse_shaper.md R151). -/
def sampleToken (b : Build) (c : Cplx) (n : Nat) : CplxWord :=
  tokenOf (shape b c (BitVec.ofNat 2 n))

theorem pshAfter_busy_iff (c : Cplx) (n : Nat) : (pshAfter c n).busy = true ↔ n < 4 :=
  decide_eq_true_iff

/-- PSH.EMIT of sample `n` leaves one more sample sent (R153). -/
theorem pshAfter_succ (c : Cplx) {n : Nat} (hn : n < 4) :
    (if BitVec.ofNat 2 n = 3 then { pshAfter c n with p := 0, busy := false }
      else { pshAfter c n with p := BitVec.ofNat 2 n + 1 }) = pshAfter c (n + 1) := by
  interval_cases n <;> rfl

theorem length_chipSamples (b : Build) (w : CplxWord) : (chipSamples b w).length = 4 := by
  simp [chipSamples]

theorem chipSamples_take_succ (b : Build) (w : CplxWord) {n : Nat} (hn : n < 4) :
    (chipSamples b w).take (n + 1) =
      (chipSamples b w).take n ++ [sampleToken b (unpackCplx w) n] := by
  simp [chipSamples, sampleToken, List.take_add_one, hn]

theorem chipSamples_take_all (b : Build) (w : CplxWord) :
    (chipSamples b w).take 4 = chipSamples b w :=
  List.take_of_length_le (length_chipSamples b w).le

/-- Each chip has four samples. -/
theorem length_flatMap_chipSamples (b : Build) (ws : List CplxWord) :
    (ws.flatMap (chipSamples b)).length = 4 * ws.length := by
  induction ws with
  | nil => rfl
  | cons w ws ih =>
    rw [List.flatMap_cons, List.length_append, ih, length_chipSamples, List.length_cons]
    omega

/-- The parts of the token of a complex value are the value. -/
theorem unpackCplx_tokenOf (c : Cplx) : unpackCplx (tokenOf c) = c := by
  simp [unpackCplx, tokenOf]

/-- PSH.LOAD where it is enabled. -/
theorem exec_pshLoad_enabled {s : State} {im re : Samp} (h : PshLoadEnabled im re s) :
    exec (.pshLoad im re) s =
      .next { s with
        psh := { busy := true, hold := { re := re, im := im }, p := 0 }, chChip := pop s.chChip } :=
  if_pos h

/-- PSH.EMIT where it is enabled. -/
theorem exec_pshEmit_enabled {s : State} {p : BitVec 2} (h : PshEmitEnabled p s) :
    exec (.pshEmit p) s =
      .next { s with
        txsOut := push s.txsOut (tokenOf (shape s.build s.psh.hold p))
        psh := if p = 3 then { s.psh with p := 0, busy := false } else { s.psh with p := p + 1 } } :=
  if_pos h

/-- The turn in which PSH takes the oldest chip: none of its samples is sent yet (R152). -/
theorem unitStep_psh_load {s : State} {w : CplxWord} {rest : List CplxWord}
    (hIdle : s.psh.busy = false) (hChip : s.chChip = w :: rest) :
    unitStep .psh s = .next { s with psh := pshAfter (unpackCplx w) 0, chChip := rest } := by
  have hOn : PshLoadEnabled (cplxIm w) (cplxRe w) s :=
    ⟨hIdle, by rw [hChip, packCplx_fields]; rfl⟩
  rw [unitStep_eq_exec (i := .pshLoad _ _) rfl hOn, exec_pshLoad_enabled hOn, hChip]
  rfl

/-- The turn in which PSH sends sample `n` (R153). -/
theorem unitStep_psh_emit {s : State} {c : Cplx} {n : Nat} (hPsh : s.psh = pshAfter c n)
    (hn : n < 4) (hReady : s.txsReady = true) :
    unitStep .psh s = .next { s with
      psh := pshAfter c (n + 1), txsOut := s.txsOut ++ [sampleToken s.build c n] } := by
  have hOn : PshEmitEnabled (BitVec.ofNat 2 n) s :=
    ⟨by rw [hPsh, pshAfter_busy_iff]; exact hn, by rw [hPsh]; rfl, hReady⟩
  rw [unitStep_eq_exec (i := .pshEmit _) rfl hOn, exec_pshEmit_enabled hOn, hPsh, pshAfter_succ c hn]
  rfl

/-- `n` turns of PSH send the first `n` samples of the chip it holds. -/
theorem runUnits_psh_emits {s : State} {w : CplxWord} (hPsh : s.psh = pshAfter (unpackCplx w) 0)
    (hReady : s.txsReady = true) {n : Nat} (hn : n ≤ 4) :
    runUnits (List.replicate n .psh) s = .next { s with
      psh := pshAfter (unpackCplx w) n
      txsOut := s.txsOut ++ (chipSamples s.build w).take n } := by
  induction n with
  | zero => simp [runUnits, ← hPsh]
  | succ n ih =>
    rw [List.replicate_succ', runUnits_append (ih (by omega))]
    refine (runUnits_cons (unitStep_psh_emit rfl hn ?_) []).trans ?_
    · exact hReady
    · rw [chipSamples_take_succ _ _ hn, ← List.append_assoc]
      rfl

/-- Five turns of PSH take the oldest chip and send its four samples (R156). -/
theorem runUnits_psh_chip {s : State} {w : CplxWord} {rest : List CplxWord}
    (hIdle : s.psh.busy = false) (hReady : s.txsReady = true) (hChip : s.chChip = w :: rest) :
    runUnits (List.replicate 5 .psh) s = .next { s with
      psh := pshAfter (unpackCplx w) 4, chChip := rest
      txsOut := s.txsOut ++ chipSamples s.build w } := by
  rw [List.replicate_succ, runUnits_cons (unitStep_psh_load hIdle hChip), ← chipSamples_take_all]
  refine runUnits_psh_emits rfl ?_ le_rfl
  exact hReady

/-! ## Each chip shaped before the next is sent -/

/-- The turns in which SPR sends a chip and PSH shapes it. -/
def chipTurns : List Unit5 := .spr :: List.replicate 5 .psh

/-- The turns of one chip, where CH_CHIP is empty before them. -/
theorem runUnits_chipTurns {s : State} {sym : Sym} {n : Nat} (hSpr : s.spr = sprAfter sym n)
    (hn : n < 32) (hDepth : 1 ≤ s.build.chDepth) (hEmpty : s.chChip = [])
    (hIdle : s.psh.busy = false) (hReady : s.txsReady = true) :
    runUnits chipTurns s = .next { s with
      spr := sprAfter sym (n + 1)
      psh := pshAfter (chip s.build sym (BitVec.ofNat 5 n)) 4
      txsOut := s.txsOut ++ chipSamples s.build (chipToken s.build sym n) } := by
  rw [chipTurns, runUnits_cons (unitStep_spr_emit hSpr hn (room_of_empty hDepth hEmpty)), hEmpty,
    ← unpackCplx_tokenOf (chip s.build sym (BitVec.ofNat 5 n))]
  exact runUnits_psh_chip hIdle hReady rfl

/-- The turns of the first `n + 1` chips, from the start of the symbol. -/
theorem runUnits_chipTurns_replicate {s : State} {sym : Sym} {n : Nat}
    (hSpr : s.spr = sprAfter sym 0) (hn : n < 32) (hDepth : 1 ≤ s.build.chDepth)
    (hEmpty : s.chChip = []) (hIdle : s.psh.busy = false) (hReady : s.txsReady = true) :
    runUnits (List.replicate (n + 1) chipTurns).flatten s = .next { s with
      spr := sprAfter sym (n + 1)
      psh := pshAfter (chip s.build sym (BitVec.ofNat 5 n)) 4
      txsOut := s.txsOut ++
        ((chipTokens s.build sym).take (n + 1)).flatMap (chipSamples s.build) } := by
  induction n with
  | zero =>
    rw [chipTokens_take_succ _ _ hn]
    simpa using runUnits_chipTurns hSpr hn hDepth hEmpty hIdle hReady
  | succ n ih =>
    rw [List.replicate_succ', List.flatten_append, runUnits_append (ih (by omega)),
      List.flatten_singleton, chipTokens_take_succ _ _ hn, List.flatMap_append,
      List.flatMap_singleton, ← List.append_assoc]
    exact runUnits_chipTurns rfl hn hDepth hEmpty rfl hReady

/-! ## Turns in any order -/

/-- SPR between its start in `s` and the end of the only symbol: the symbol still waits, or `sent` of its chips have
been sent. -/
def SprProgress (s : State) (sym : Sym) (t : State) (sent : Nat) : Prop :=
  (t.symIn = [sym] ∧ t.spr = s.spr ∧ sent = 0) ∨
    (t.symIn = [] ∧ t.spr = sprAfter sym sent ∧ sent ≤ 32)

/-- The samples `out` that PSH has sent of the chips it has taken: all of them, or all of those before the last and
`n` of the last. -/
def PshProgress (b : Build) (taken out : List CplxWord) (psh : Psh) : Prop :=
  (psh.busy = false ∧ out = taken.flatMap (chipSamples b)) ∨
    ∃ done w n, n < 4 ∧ taken = done ++ [w] ∧ psh = pshAfter (unpackCplx w) n ∧
      out = done.flatMap (chipSamples b) ++ (chipSamples b w).take n

/-- What turns of SPR and PSH have made of `s` in `t`: the chips sent are those PSH has taken and those in CH_CHIP, and
TXS_OUT has their samples. -/
structure SymbolProgress (s : State) (sym : Sym) (t : State) (sent : Nat)
    (taken out : List CplxWord) : Prop where
  build : t.build = s.build
  spr : SprProgress s sym t sent
  chips : s.chChip ++ (chipTokens s.build sym).take sent = taken ++ t.chChip
  psh : PshProgress s.build taken out t.psh
  txsOut : t.txsOut = s.txsOut ++ out

theorem SprProgress.sent_le {s t : State} {sym : Sym} {sent : Nat} (h : SprProgress s sym t sent) :
    sent ≤ 32 := by
  obtain ⟨-, -, rfl⟩ | ⟨-, -, hSent⟩ := h
  · exact Nat.zero_le _
  · exact hSent

/-- Four samples sent of the last chip taken are all of its samples. -/
theorem PshProgress.emit {b : Build} {done : List CplxWord} {w : CplxWord} {n : Nat} (hn : n < 4) :
    PshProgress b (done ++ [w])
      (done.flatMap (chipSamples b) ++ (chipSamples b w).take n ++ [sampleToken b (unpackCplx w) n])
      (pshAfter (unpackCplx w) (n + 1)) := by
  rw [List.append_assoc, ← chipSamples_take_succ b w hn]
  by_cases hLast : n + 1 < 4
  · exact .inr ⟨done, w, n + 1, hLast, rfl, rfl, rfl⟩
  · obtain rfl : n = 3 := by omega
    exact .inl ⟨rfl, by simp [chipSamples_take_all]⟩

/-- A turn of SPR loads the waiting symbol, sends its next chip, or waits. -/
theorem SymbolProgress.spr_turn {s t : State} {sym : Sym} {sent : Nat} {taken out : List CplxWord}
    (hIdle : s.spr.busy = false) (h : SymbolProgress s sym t sent taken out) :
    ∃ t' sent', unitStep .spr t = .next t' ∧ SymbolProgress s sym t' sent' taken out := by
  by_cases hOn : unitEnabled .spr t
  · obtain ⟨hIn, hSpr, rfl⟩ | ⟨hIn, hSpr, -⟩ := h.spr <;>
      obtain ⟨hFree, hRun, hSome⟩ | ⟨hBusy, hRoom⟩ := hOn
    · exact ⟨_, _, unitStep_spr_load hFree hRun hIn,
        { h with spr := .inr ⟨rfl, rfl, Nat.zero_le _⟩ }⟩
    · rw [hSpr, hIdle] at hBusy
      cases hBusy
    · exact absurd hIn hSome
    · have hSent : sent < 32 := by rwa [hSpr, sprAfter_busy_iff] at hBusy
      refine ⟨_, _, unitStep_spr_emit hSpr hSent hRoom,
        { h with spr := .inr ⟨hIn, rfl, hSent⟩, chips := ?_ }⟩
      rw [chipTokens_take_succ _ _ hSent, ← List.append_assoc, h.chips, h.build, List.append_assoc]
  · exact ⟨t, sent, unitStep_of_not_unitEnabled hOn, h⟩

/-- A turn of PSH takes the oldest chip, sends the next sample of the one it holds, or waits. -/
theorem SymbolProgress.psh_turn {s t : State} {sym : Sym} {sent : Nat} {taken out : List CplxWord}
    (h : SymbolProgress s sym t sent taken out) :
    ∃ t' taken' out', unitStep .psh t = .next t' ∧ SymbolProgress s sym t' sent taken' out' := by
  by_cases hOn : unitEnabled .psh t
  · obtain ⟨hFree, rfl⟩ | ⟨done, w, n, hn, rfl, hPsh, rfl⟩ := h.psh <;>
      obtain ⟨hIdle, hSome⟩ | ⟨hBusy, hReady⟩ := hOn
    · obtain ⟨w, rest, hChip⟩ := List.exists_cons_of_ne_nil hSome
      refine ⟨_, taken ++ [w], _, unitStep_psh_load hIdle hChip,
        { h with psh := .inr ⟨taken, w, 0, by decide, rfl, rfl, by simp⟩, chips := ?_ }⟩
      rw [h.chips, hChip, List.append_assoc, List.singleton_append]
    · rw [hFree] at hBusy
      cases hBusy
    · rw [hPsh, Bool.eq_false_iff, ne_eq, pshAfter_busy_iff] at hIdle
      exact absurd hn hIdle
    · refine ⟨_, _, _, unitStep_psh_emit hPsh hn hReady,
        { h with psh := PshProgress.emit hn, txsOut := ?_ }⟩
      rw [h.txsOut, h.build, List.append_assoc]
  · exact ⟨t, taken, out, unitStep_of_not_unitEnabled hOn, h⟩

/-- Turns of SPR and PSH in any order go on and keep the account of chips and samples. -/
theorem SymbolProgress.run {s : State} {sym : Sym} (hIdle : s.spr.busy = false) {us : List Unit5}
    (hUs : ∀ u ∈ us, u = .spr ∨ u = .psh) {t : State} {sent : Nat} {taken out : List CplxWord}
    (h : SymbolProgress s sym t sent taken out) :
    ∃ t' sent' taken' out', runUnits us t = .next t' ∧
      SymbolProgress s sym t' sent' taken' out' := by
  induction us generalizing t sent taken out with
  | nil => exact ⟨t, sent, taken, out, rfl, h⟩
  | cons u us ih =>
    obtain ⟨hu, hRest⟩ := List.forall_mem_cons.mp hUs
    obtain rfl | rfl := hu
    · obtain ⟨r, sent', hStep, hr⟩ := h.spr_turn hIdle
      rw [runUnits_cons hStep]
      exact ih hRest hr
    · obtain ⟨r, taken', out', hStep, hr⟩ := h.psh_turn
      rw [runUnits_cons hStep]
      exact ih hRest hr

/-- The samples sent as a part of the samples of the chips taken, by what PSH still holds back. -/
theorem PshProgress.out_eq {b : Build} {taken out : List CplxWord} {psh : Psh}
    (h : PshProgress b taken out psh) :
    out = (taken.flatMap (chipSamples b)).take
      (4 * taken.length - if psh.busy then 4 - psh.p.toNat else 0) := by
  obtain ⟨hIdle, rfl⟩ | ⟨done, w, n, hn, rfl, rfl, rfl⟩ := h
  · rw [hIdle, ← length_flatMap_chipSamples b]
    simp
  · have hBusy : (pshAfter (unpackCplx w) n).busy = true := (pshAfter_busy_iff ..).mpr hn
    have hp : (pshAfter (unpackCplx w) n).p.toNat = n :=
      (BitVec.toNat_ofNat ..).trans (Nat.mod_eq_of_lt hn)
    have hCount : 4 * (done ++ [w]).length - (4 - n) =
        (done.flatMap (chipSamples b)).length + n := by
      rw [length_flatMap_chipSamples, List.length_append, List.length_singleton]
      omega
    rw [if_pos hBusy, hp, hCount, List.flatMap_append, List.flatMap_singleton,
      List.take_length_add_append]

/-- Settles O46: SPR alone where there is room, SPR and PSH chip by chip, and the two in any order. -/
theorem symbolGivesItsThirtyTwoChips : Obligations.SymbolGivesItsThirtyTwoChips := by
  intro s sym rest hIdle hRun hIn
  have hLoad := unitStep_spr_load hIdle hRun hIn
  refine ⟨fun hRoom => ?_, fun hDepth hEmpty hFree hReady => ?_, fun hOnly hFree us hUs => ?_⟩
  · rw [List.replicate_succ, runUnits_cons hLoad, ← chipTokens_take_all]
    exact runUnits_spr_emits rfl le_rfl hRoom
  · have hTurns := runUnits_chipTurns_replicate (s := { s with spr := sprAfter sym 0, symIn := rest })
      (n := 31) rfl (by decide) hDepth hEmpty hFree hReady
    rw [chipTokens_take_all] at hTurns
    exact (runUnits_cons hLoad _).trans hTurns
  · have hStart : SymbolProgress s sym s 0 [] [] :=
      { build := rfl, spr := .inl ⟨hOnly ▸ hIn, rfl, rfl⟩, chips := by simp
        psh := .inl ⟨hFree, rfl⟩, txsOut := by simp }
    obtain ⟨t, sent, taken, out, hRuns, h⟩ := hStart.run hIdle hUs
    refine ⟨t, sent, taken, hRuns, h.spr.sent_le, h.chips, ?_, ?_⟩
    · obtain ⟨hWaits, hSpr, hSent⟩ | ⟨hTaken, hSpr, -⟩ := h.spr
      · rw [if_neg (by simp [hWaits])]
        exact ⟨hWaits, hSpr, hSent⟩
      · rw [if_pos hTaken]
        exact hSpr
    · rw [h.txsOut, ← h.psh.out_eq]

end Sys2Proof.Machine
end

section
/-! The numbers of PSH: the rounded product of R151 with the weights of R31 (41_pulse_shaper.md). -/

namespace Sys2Proof.Machine

/-- One part of `Shape` by floor division (R151). -/
theorem shapePart_eq_div (x : Samp) (w : Weight) :
    shapePart x w = BitVec.ofInt 16 ((x.toInt * w.toNat + 8192) / 16384) := by
  rw [shapePart, shr_14]

/-- A weight of at most 1 gives a product between 0 and the part, and rounding to nearest passes neither, both being
integers. -/
theorem roundedProduct_between (x : Int) {w : Nat} (hw : w ≤ 16384) :
    min 0 x ≤ (x * w + 8192) / 16384 ∧ (x * w + 8192) / 16384 ≤ max 0 x := by
  rcases le_total 0 x with hx | hx
  · have hnonneg : 0 ≤ x * (w : Int) := by positivity
    have hle : x * (w : Int) ≤ x * 16384 := mul_le_mul_of_nonneg_left (by omega) hx
    omega
  · have hnonpos : x * (w : Int) ≤ 0 := mul_nonpos_of_nonpos_of_nonneg hx (by positivity)
    have hge : x * 16384 ≤ x * (w : Int) := mul_le_mul_of_nonpos_left (by omega) hx
    omega

/-- No weight of R31 is above 1. -/
theorem pshWeight_default_le_one (p : BitVec 2) : (pshWeight Build.default p).toNat ≤ 16384 := by
  revert p
  decide

/-- Settles O49: the product lies between 0 and the part, so it is no larger and fits where the part fits. -/
theorem shapingNeverGrowsAPart : Obligations.ShapingNeverGrowsAPart := by
  intro x p w v
  have hBetween : min 0 x.toInt ≤ v ∧ v ≤ max 0 x.toInt :=
    roundedProduct_between x.toInt (pshWeight_default_le_one p)
  refine ⟨by simpa using Set.abs_sub_left_of_mem_uIcc hBetween, ?_⟩
  have hx₁ := x.le_toInt
  have hx₂ := x.toInt_lt
  rw [shapePart_eq_div]
  exact toInt_ofInt_of_mem v (by omega) (by omega)

/-- The weight 0 gives 0. -/
theorem shapePart_zero_weight (x : Samp) : shapePart x 0 = 0 := by
  simp [shapePart_eq_div]

/-- The weight 1 gives the part itself (R157). -/
theorem shapePart_unit_weight (x : Samp) : shapePart x 16384 = x := by
  have hExact : (x.toInt * 16384 + 8192) / 16384 = x.toInt := by omega
  rw [shapePart_eq_div]
  exact (congrArg (BitVec.ofInt 16) hExact).trans x.ofInt_toInt

end Sys2Proof.Machine
end

section
/-! The two operations of PSH, the words that select them, and the four samples of a chip (41_pulse_shaper.md R151 to
R157). -/

namespace Sys2Proof.Machine

/-- A busy PSH is selected by its counter, whether or not the sample is accepted (R105). -/
theorem unitKey_psh_of_busy {s : State} (hBusy : s.psh.busy = true) :
    unitKey .psh s = some (encode (.pshEmit s.psh.p)) := by
  simp [unitKey, encode, pshWord, hBusy]

/-- Settles O3: the oldest chip selects PSH.LOAD, which an idle PSH enables for every value of it. -/
theorem pshLoadTakesTheChip : Obligations.PshLoadTakesTheChip := by
  intro s w rest hChip hIdle
  have hOn : PshLoadEnabled (cplxIm w) (cplxRe w) s :=
    ⟨hIdle, by rw [hChip, packCplx_fields]; rfl⟩
  refine ⟨unitStep_eq_exec (i := .pshLoad (cplxIm w) (cplxRe w)) rfl hOn, ?_⟩
  refine (exec_pshLoad_enabled hOn).trans ?_
  rw [hChip, pop_cons]
  rfl

/-- The weight of PSH_W as an entry of a list. -/
theorem pshWeight_eq_getD (b : Build) (p : BitVec 2) :
    pshWeight b p = b.pshW.toList.getD p.toNat 0 := by
  simp [pshWeight, p.isLt]

/-- The token of a shaped chip, part by part (R151, 30_encoding.md R102). -/
theorem tokenOf_shape (b : Build) (c : Cplx) (p : BitVec 2) :
    tokenOf (shape b c p) = shapePart c.im (pshWeight b p) ++ shapePart c.re (pshWeight b p) := rfl

/-- The registers of a busy PSH after PSH.EMIT, in one form for every `p` (R153). -/
theorem psh_emitted {r : Psh} (hBusy : r.busy = true) (p : BitVec 2) :
    (if p = 3 then { r with p := 0, busy := false } else { r with p := p + 1 }) =
      { busy := decide (p ≠ 3), hold := r.hold, p := if p = 3 then 0 else p + 1 : Psh } := by
  split_ifs with hp
  · rw [decide_eq_false (not_not_intro hp)]
  · rw [decide_eq_true hp, hBusy]

/-- Settles O4: the counter selects PSH.EMIT, and the acceptance of TXS_OUT is the rest of its enabling condition. -/
theorem pshEmitPushesTheWeightedSample : Obligations.PshEmitPushesTheWeightedSample := by
  rintro s _ hBusy rfl
  refine ⟨stepTurn_of_unitKey rfl (unitKey_psh_of_busy hBusy), fun hReady => ?_, fun hWait => ?_⟩
  · rw [exec_pshEmit_enabled ⟨hBusy, rfl, hReady⟩, psh_emitted hBusy, push, tokenOf_shape,
      shapePart_eq_div, shapePart_eq_div, pshWeight_eq_getD]
  · refine exec_of_not_opEnabled (u := .psh) rfl fun ⟨_, _, hReady⟩ => ?_
    rw [hWait] at hReady
    cases hReady

/-- A sample of weight 0 is the zero token (R156). -/
theorem tokenOf_shape_of_weight_zero {b : Build} {p : BitVec 2} (hw : pshWeight b p = 0)
    (c : Cplx) : tokenOf (shape b c p) = 0 := by
  rw [tokenOf_shape, hw, shapePart_zero_weight, shapePart_zero_weight]
  rfl

/-- A sample of weight 1 is the chip's own token (R157). -/
theorem tokenOf_shape_of_weight_one {b : Build} {p : BitVec 2} (hw : pshWeight b p = 16384)
    (w : CplxWord) : tokenOf (shape b (unpackCplx w) p) = w := by
  rw [tokenOf_shape, hw, shapePart_unit_weight, shapePart_unit_weight]
  exact packCplx_fields w

/-- The four samples of a chip with the weights of R31 (R156). -/
theorem chipSamples_of_weightTable {b : Build} (hTable : b.pshW = weightTable) (w : CplxWord) :
    chipSamples b w =
      [0, tokenOf (shape b (unpackCplx w) 1), w, tokenOf (shape b (unpackCplx w) 3)] := by
  have hZero : pshWeight b 0 = 0 := by
    rw [pshWeight_eq_getD, hTable]
    rfl
  have hOne : pshWeight b 2 = 16384 := by
    rw [pshWeight_eq_getD, hTable]
    rfl
  calc chipSamples b w
    _ = [tokenOf (shape b (unpackCplx w) 0), tokenOf (shape b (unpackCplx w) 1),
          tokenOf (shape b (unpackCplx w) 2), tokenOf (shape b (unpackCplx w) 3)] := rfl
    _ = _ := by rw [tokenOf_shape_of_weight_zero hZero, tokenOf_shape_of_weight_one hOne]

/-- Settles O47: the five turns give the samples of the chip, which the weights of R31 make these four. -/
theorem chipGivesItsFourSamples : Obligations.ChipGivesItsFourSamples := by
  intro s w rest hIdle hReady hChip hTable
  rw [runUnits_psh_chip hIdle hReady hChip, chipSamples_of_weightTable hTable]
  rfl

end Sys2Proof.Machine
end

section
/-! The numbers of the conjugate product (42_quadrature_demod.md R171): its ranges, and where it is zero. -/

namespace Sys2Proof.Machine

/-- The product of two parts: -32768 times itself is the largest, -32768 times 32767 the smallest. -/
theorem samp_mul_bounds (p q : Samp) :
    -1073709056 ≤ p.toInt * q.toInt ∧ p.toInt * q.toInt ≤ 1073741824 := by
  have hp₁ : -32768 ≤ p.toInt := p.le_toInt
  have hp₂ : p.toInt < 32768 := p.toInt_lt
  have hq₁ : -32768 ≤ q.toInt := q.le_toInt
  have hq₂ : q.toInt < 32768 := q.toInt_lt
  refine ⟨?_, BitVec.toInt_mul_toInt_le⟩
  rcases le_total 0 q.toInt with hq | hq
  · have hge : -32768 * q.toInt ≤ p.toInt * q.toInt := mul_le_mul_of_nonneg_right hp₁ hq
    omega
  · have hge : 32767 * q.toInt ≤ p.toInt * q.toInt := mul_le_mul_of_nonpos_right (by omega) hq
    omega

theorem conjRe_bounds (x prev : Cplx) :
    -2147418112 ≤ conjRe x prev ∧ conjRe x prev ≤ 2147483648 := by
  have hRe := samp_mul_bounds x.re prev.re
  have hIm := samp_mul_bounds x.im prev.im
  unfold conjRe
  omega

theorem conjIm_bounds (x prev : Cplx) :
    -2147483648 < conjIm x prev ∧ conjIm x prev < 2147483648 := by
  have hPlus := samp_mul_bounds x.im prev.re
  have hMinus := samp_mul_bounds x.re prev.im
  unfold conjIm
  omega

/-- Settles O51: the ends of the real part are reached by two samples at (-32768, -32768), and by that one and one at
(32767, 32767). -/
theorem conjugateProductRanges : Obligations.ConjugateProductRanges := by
  refine ⟨fun x prev => ?_, ⟨⟨-32768, -32768⟩, ⟨-32768, -32768⟩, by decide⟩,
    ⟨⟨32767, 32767⟩, ⟨-32768, -32768⟩, by decide⟩⟩
  obtain ⟨hRe₁, hRe₂⟩ := conjRe_bounds x prev
  exact ⟨hRe₁, hRe₂, conjIm_bounds x prev⟩

/-- The squared magnitude of a complex value. -/
def Cplx.normSq (c : Cplx) : Int := c.re.toInt ^ 2 + c.im.toInt ^ 2

/-- Only (0, 0) has magnitude 0. -/
theorem Cplx.normSq_eq_zero_iff (c : Cplx) : c.normSq = 0 ↔ c = { re := 0, im := 0 } := by
  obtain ⟨re, im⟩ := c
  have hParts (v : Samp) : v.toInt ^ 2 = 0 ↔ v = 0 := by
    rw [sq_eq_zero_iff, ← BitVec.toInt_inj, BitVec.toInt_ofNat]
    rfl
  rw [normSq, add_eq_zero_iff_of_nonneg (sq_nonneg _) (sq_nonneg _), hParts, hParts, Cplx.mk.injEq]

/-- The squared magnitude of the product is the product of the two squared magnitudes (R172, corner cases). -/
theorem conj_normSq (x prev : Cplx) :
    conjRe x prev ^ 2 + conjIm x prev ^ 2 = x.normSq * prev.normSq := by
  unfold conjRe conjIm Cplx.normSq
  ring

theorem productZero_iff (x prev : Cplx) :
    productZero x prev = true ↔ conjRe x prev = 0 ∧ conjIm x prev = 0 := by
  simp [productZero]

/-- Settles O50: the product is zero where its squared magnitude is, which is where one of the two factors is. -/
theorem productIsZeroOnlyForAZeroSample : Obligations.ProductIsZeroOnlyForAZeroSample := by
  intro x prev
  calc productZero x prev = true
    _ ↔ conjRe x prev ^ 2 + conjIm x prev ^ 2 = 0 := by
      rw [productZero_iff, add_eq_zero_iff_of_nonneg (sq_nonneg _) (sq_nonneg _), sq_eq_zero_iff,
        sq_eq_zero_iff]
    _ ↔ x.normSq = 0 ∨ prev.normSq = 0 := by rw [conj_normSq, mul_eq_zero]
    _ ↔ _ := by rw [Cplx.normSq_eq_zero_iff, Cplx.normSq_eq_zero_iff]

end Sys2Proof.Machine
end

section
/-! The arctangent of R173: its micro-rotations, its written-out form and the widths of its registers
(42_quadrature_demod.md). -/

namespace Sys2Proof.Machine

/-! ## The micro-rotations -/

/-- A micro-rotation by floor divisions (R173 step 3). -/
theorem microRotate_eq_div (angle : FineAngle) (i : Nat) (v : Int × Int × Int) :
    microRotate angle i v =
      if v.2.1 ≥ 0 then (v.1 + v.2.1 / 2 ^ i, v.2.1 - v.1 / 2 ^ i, v.2.2 + (angle.toNat : Int))
      else (v.1 - v.2.1 / 2 ^ i, v.2.1 + v.1 / 2 ^ i, v.2.2 - (angle.toNat : Int)) := by
  simp only [microRotate, shr_eq_div, Nat.cast_pow, Nat.cast_ofNat, ge_iff_le]

/-- The micro-rotations as a fold over their numbers. -/
theorem rotateAll_eq_foldl (as : List FineAngle) (i : Nat) (v : Int × Int × Int) :
    rotateAll as i v =
      (List.range as.length).foldl (fun v j => microRotate (as.getD j 0) (i + j) v) v := by
  induction as generalizing i v with
  | nil => rfl
  | cons a as ih =>
    rw [rotateAll, ih, List.length_cons, List.range_succ_eq_map, List.foldl_cons, List.foldl_map]
    simp only [List.getD_cons_zero, List.getD_cons_succ, Nat.add_zero, Nat.succ_eq_add_one,
      Nat.add_right_comm, ← Nat.add_assoc]

theorem clamp_eq_ite (v lo hi : Int) (h : lo ≤ hi) :
    clamp v lo hi = if v > hi then hi else if v < lo then lo else v := by
  unfold clamp
  split_ifs <;> omega

/-- Settles O52: the shifts are floor divisions, the recursion over the table is the fold, and the clamp is the
pseudocode's two comparisons. -/
theorem arctangentIsTheCordicOfR173 : Obligations.ArctangentIsTheCordicOfR173 := by
  intro b y0 x0 start final out
  have hFinal : cordicAngle b y0 x0 = final.2.2 := by
    simp only [cordicAngle, rotateAll_eq_foldl, Vector.length_toList, microRotate_eq_div,
      Nat.zero_add]
    rfl
  have hOut : shr (cordicAngle b y0 x0 + 1024) 11 = out := by
    rw [hFinal, shr_11]
    rfl
  rw [atan2Q, hOut]
  exact clamp_eq_ite out (-piQ) piQ (by decide)

/-- Settles O54: the thirteen pairs are evaluated. -/
theorem arctangentFixedPoints : Obligations.ArctangentFixedPoints := by
  unfold Obligations.ArctangentFixedPoints
  decide

/-! ## The widths of X and Y -/

/-- The bounds of X and Y before micro-rotation `i`, in units of `2 ^ 46`: X is at least 0 and at most 3 less
`2 / 2 ^ i`, and Y at most 1 in magnitude. -/
def XYWithin (i : Nat) (v : Int × Int × Int) : Prop :=
  0 ≤ v.1 ∧ v.1 + 2 * 2 ^ (46 - i) ≤ 3 * 2 ^ 46 ∧ -2 ^ 46 ≤ v.2.1 ∧ v.2.1 ≤ 2 ^ 46

/-- A shift of Y moves X by at most `2 ^ (46 - i)`, rounding included, since `2 ^ i` divides `2 ^ 46`. -/
theorem div_two_pow_bounds {i : Nat} (hi : i ≤ 46) {y : Int} (hLo : -2 ^ 46 ≤ y) (hHi : y ≤ 2 ^ 46) :
    -2 ^ (46 - i) ≤ y / 2 ^ i ∧ y / 2 ^ i ≤ 2 ^ (46 - i) := by
  have hSplit : (2 : Int) ^ 46 = 2 ^ (46 - i) * 2 ^ i := by rw [← pow_add, Nat.sub_add_cancel hi]
  have hPos : (0 : Int) < 2 ^ i := by positivity
  rw [hSplit] at hLo hHi
  exact ⟨Int.le_ediv_of_mul_le hPos (by linarith), Int.ediv_le_of_le_mul hPos hHi⟩

/-- A shift of X is at most `2 ^ 46`: with `d = 2 ^ i` the bound of X leaves a multiple of `(d - 1) * (d - 2)`, which is
0 in the first two rotations and positive after them. -/
theorem div_two_pow_le {i : Nat} (hi : i ≤ 46) {x : Int} (hx : x + 2 * 2 ^ (46 - i) ≤ 3 * 2 ^ 46) :
    x / 2 ^ i ≤ 2 ^ 46 := by
  have hSplit : (2 : Int) ^ 46 = 2 ^ (46 - i) * 2 ^ i := by rw [← pow_add, Nat.sub_add_cancel hi]
  have hPos : (0 : Int) < 2 ^ i := by positivity
  have hScale : (0 : Int) < 2 ^ (46 - i) := by positivity
  generalize (2 : Int) ^ (46 - i) = m at *
  generalize (2 : Int) ^ i = d at *
  have hSteps : 0 ≤ m * ((d - 1) * (d - 2)) := by
    refine mul_nonneg hScale.le ?_
    obtain rfl | hd : d = 1 ∨ 2 ≤ d := by omega
    · decide
    · exact mul_nonneg (by omega) (by omega)
  rw [hSplit] at hx ⊢
  exact Int.ediv_le_of_le_mul hPos (by linarith)

/-- A micro-rotation turns Y towards 0 by the shifted X, and X grows by the shifted magnitude of Y. -/
theorem XYWithin.microRotate {i : Nat} {v : Int × Int × Int} (h : XYWithin i v) (hi : i < 46)
    (angle : FineAngle) : XYWithin (i + 1) (microRotate angle i v) := by
  obtain ⟨hX₀, hX, hY₁, hY₂⟩ := h
  obtain ⟨hShiftY₁, hShiftY₂⟩ := div_two_pow_bounds hi.le hY₁ hY₂
  have hShiftX : v.1 / 2 ^ i ≤ 2 ^ 46 := div_two_pow_le hi.le hX
  have hShiftX₀ : 0 ≤ v.1 / 2 ^ i := Int.ediv_nonneg hX₀ (by positivity)
  have hHalf : (2 : Int) * 2 ^ (46 - (i + 1)) = 2 ^ (46 - i) := by
    rw [← pow_succ']
    congr 1
    omega
  rw [microRotate_eq_div, XYWithin, hHalf]
  split_ifs with hSign
  · have hShiftY₀ : 0 ≤ v.2.1 / 2 ^ i := Int.ediv_nonneg hSign (by positivity)
    dsimp only
    omega
  · have hShiftY₀ : v.2.1 / 2 ^ i ≤ 0 :=
      Int.ediv_nonpos_of_nonpos_of_neg (by omega) (by positivity)
    dsimp only
    omega

/-- The bounds hold through the micro-rotations of any table. -/
theorem XYWithin.rotateAll {as : List FineAngle} {i : Nat} {v : Int × Int × Int} (h : XYWithin i v)
    (hLen : i + as.length ≤ 46) : XYWithin (i + as.length) (rotateAll as i v) := by
  induction as generalizing i v with
  | nil => exact h
  | cons a as ih =>
    rw [List.length_cons] at hLen ⊢
    rw [Nat.add_comm as.length, ← Nat.add_assoc]
    exact ih (h.microRotate (by omega) a) (by omega)

/-! ## The width of Z -/

/-- Each micro-rotation moves Z by its angle. -/
theorem abs_rotateAll_z_le (as : List FineAngle) (i : Nat) (v : Int × Int × Int) :
    |(rotateAll as i v).2.2| ≤ |v.2.2| + ((as.map BitVec.toNat).sum : Nat) := by
  induction as generalizing i v with
  | nil => simp [rotateAll]
  | cons a as ih =>
    have hStep : |(microRotate a i v).2.2| ≤ |v.2.2| + a.toNat := by
      unfold microRotate
      split_ifs
      · exact (abs_add_le _ _).trans_eq (by simp)
      · exact (abs_sub _ _).trans_eq (by simp)
    have hRest := ih (i + 1) (microRotate a i v)
    rw [List.map_cons, List.sum_cons, Nat.cast_add]
    exact hRest.trans (by linarith)

/-- The angles of any number of micro-rotations add up to at most the whole of ATAN_ROM. -/
theorem atanTable_take_sum_le (n : Nat) :
    ((atanTable.toList.take n).map BitVec.toNat).sum ≤ 29246985 :=
  calc ((atanTable.toList.take n).map BitVec.toNat).sum
    _ ≤ (atanTable.toList.map BitVec.toNat).sum :=
      ((List.take_sublist n _).map _).sum_le_sum (by simp)
    _ = 29246985 := by decide

/-! ## From the conjugate product -/

/-- Step 1 leaves X at 0 or above, both parts within `2 ^ 31`, and Z within a quarter turn (R173). -/
theorem foldHalfPlane_bounds {y x : Int} (hy : |y| ≤ 2 ^ 31) (hx : |x| ≤ 2 ^ 31) :
    0 ≤ (foldHalfPlane y x).1 ∧ (foldHalfPlane y x).1 ≤ 2 ^ 31 ∧
      |(foldHalfPlane y x).2.1| ≤ 2 ^ 31 ∧ |(foldHalfPlane y x).2.2| ≤ halfPi := by
  rw [abs_le] at hy hx
  unfold foldHalfPlane halfPi
  split_ifs <;> simp only [abs_le] <;> omega

/-- Settles O53: the product is within `2 ^ 31`, so after the guard bits X and Y meet the bounds of the first
micro-rotation, which every further one keeps; Z starts within a quarter turn. -/
theorem cordicRegistersNeverOverflow : Obligations.CordicRegistersNeverOverflow := by
  intro x prev n hn v r
  have hRe : |conjRe x prev| ≤ 2 ^ 31 := by
    have hBounds := conjRe_bounds x prev
    rw [abs_le]
    omega
  have hIm : |conjIm x prev| ≤ 2 ^ 31 := by
    have hBounds := conjIm_bounds x prev
    rw [abs_le]
    omega
  obtain ⟨hX₀, hX, hY, hZ⟩ : 0 ≤ v.1 ∧ v.1 ≤ 2 ^ 31 ∧ |v.2.1| ≤ 2 ^ 31 ∧ |v.2.2| ≤ halfPi :=
    foldHalfPlane_bounds hIm hRe
  have hStart : XYWithin 0 (shl v.1 15, shl v.2.1 15, v.2.2) := by
    rw [abs_le] at hY
    rw [XYWithin, shl_15, shl_15]
    dsimp only
    omega
  have hLen : (atanTable.toList.take n).length ≤ 16 := by simp [hn]
  obtain ⟨hEndX₀, hEndX, hEndY₁, hEndY₂⟩ : XYWithin _ r := hStart.rotateAll (by omega)
  have hEndScale : (0 : Int) < 2 ^ (46 - (0 + (atanTable.toList.take n).length)) := by positivity
  have hEndZ : |r.2.2| ≤ |v.2.2| + _ := abs_rotateAll_z_le _ _ _
  have hSum := atanTable_take_sum_le n
  rw [halfPi] at hZ
  refine ⟨?_, ?_, by omega⟩
  · rw [abs_lt]
    omega
  · rw [abs_lt]
    omega

end Sys2Proof.Machine
end

section
/-! QDM.STEP and the word that selects it (42_quadrature_demod.md R172). -/

namespace Sys2Proof.Machine

/-- QDM is selected by the oldest sample, whatever RX_RUN and CH_DEM (R105). -/
theorem unitKey_qdm_of_cons {s : State} {w : CplxWord} {rest : List CplxWord}
    (hIn : s.rxsIn = w :: rest) : unitKey .qdm s = some (encode (.qdmStep (cplxIm w) (cplxRe w))) := by
  simp [unitKey, encode, hIn, packCplx_fields]

/-- QDM.STEP where it is enabled. -/
theorem exec_qdmStep_enabled {s : State} {im re : Samp} (h : QdmStepEnabled im re s) :
    exec (.qdmStep im re) s =
      .next { s with
        rxsIn := pop s.rxsIn
        sticky := setFlagIf (productZero { re := re, im := im } s.qdmPrev) .zeroMag s.sticky
        chDem := push s.chDem (demodulate s.build { re := re, im := im } s.qdmPrev)
        qdmPrev := { re := re, im := im } } :=
  if_pos h

/-- ZEROMAG is bit 1 of the flags, set where both parts of the product are 0 (R172). -/
theorem setFlagIf_productZero (x prev : Cplx) (flags : BitVec 5) :
    setFlagIf (productZero x prev) .zeroMag flags =
      if conjRe x prev = 0 ∧ conjIm x prev = 0 then flags ||| 2 else flags := by
  simp only [setFlagIf, productZero_iff]
  rfl

/-- What QDM outputs, by the two parts of the product (R172). -/
theorem demodulate_eq_ite (b : Build) (x prev : Cplx) :
    demodulate b x prev =
      if conjRe x prev = 0 ∧ conjIm x prev = 0 then 0
      else BitVec.ofInt 16 (atan2Q b (conjIm x prev) (conjRe x prev)) := by
  simp only [demodulate, productZero_iff]

/-- Settles O5: the oldest sample selects QDM.STEP, and RX_RUN and room in CH_DEM are the rest of its enabling
condition. -/
theorem qdmStepPushesThePhaseDifference : Obligations.QdmStepPushesThePhaseDifference := by
  intro s w rest hIn
  have hHead : s.rxsIn.head? = some (packCplx (cplxIm w) (cplxRe w)) := by
    rw [hIn, packCplx_fields]
    rfl
  refine ⟨stepTurn_of_unitKey rfl (unitKey_qdm_of_cons hIn), fun hRun hRoom => ?_, fun hWait => ?_⟩
  · have hOn : QdmStepEnabled (cplxIm w) (cplxRe w) s :=
      ⟨hRun, hHead, (full_eq_false_iff ..).mpr hRoom⟩
    refine (exec_qdmStep_enabled hOn).trans ?_
    rw [hIn, pop_cons, setFlagIf_productZero, demodulate_eq_ite]
    rfl
  · refine exec_of_not_opEnabled (u := .qdm) rfl fun ⟨hRun, _, hRoom⟩ => ?_
    rcases hWait with hStop | hFull
    · rw [rxRun, hStop] at hRun
      cases hRun
    · exact absurd ((full_eq_false_iff ..).mp hRoom) (Nat.not_lt.mpr hFull)

end Sys2Proof.Machine
end

section
/-! DCT.STEP, the word that selects it and the width of its estimate (43_dc_tracker.md R192, R193). -/

namespace Sys2Proof.Machine

/-- The updated estimate by floor division (R192). -/
theorem trackedEstimate_eq_div (alpha : Gain) (est : Est) (x : Ang) :
    trackedEstimate alpha est x =
      est.toInt + (alpha.toNat : Int) * (x.toInt * 2 ^ 24 - est.toInt) / 2 ^ 24 := by
  rw [trackedEstimate, shr_24, shl_24]
  rfl

/-- The output by floor division of the updated estimate (R192). -/
theorem dcCorrected_eq_div (alpha : Gain) (est : Est) (x : Ang) :
    dcCorrected alpha est x = x.toInt - trackedEstimate alpha est x / 2 ^ 24 := by
  rw [dcCorrected, shr_24]
  rfl

/-- The updated estimate fits the register: it lies between two values that do (R193). -/
theorem toInt_ofInt_trackedEstimate (alpha : Gain) (est : Est) (x : Ang) :
    (BitVec.ofInt 40 (trackedEstimate alpha est x)).toInt = trackedEstimate alpha est x := by
  obtain ⟨hMin, hMax⟩ := trackedEstimate_between alpha est x
  have hEst₁ := est.le_toInt
  have hEst₂ := est.toInt_lt
  have hx₁ := x.le_toInt
  have hx₂ := x.toInt_lt
  exact toInt_ofInt_of_mem _ (by omega) (by omega)

/-- DCT is selected by the oldest angle, whatever CH_DCC (R105). -/
theorem unitKey_dct_of_cons {s : State} {x : Ang} {rest : List Ang} (hDem : s.chDem = x :: rest) :
    unitKey .dct s = some (encode (.dctStep x)) := by
  rw [unitKey, hDem]
  rfl

/-- DCT.STEP where it is enabled. -/
theorem exec_dctStep_enabled {s : State} {x : Ang} (h : DctStepEnabled x s) :
    exec (.dctStep x) s =
      .next { s with
        chDem := pop s.chDem
        dctEst := BitVec.ofInt 40 (trackedEstimate s.dctAlpha s.dctEst x)
        chDcc := push s.chDcc (BitVec.ofInt 17 (dcCorrected s.dctAlpha s.dctEst x)) } :=
  if_pos h

/-- Settles O6: the oldest angle selects DCT.STEP, and room in CH_DCC is the rest of its enabling condition. -/
theorem dctStepTracksAndSubtracts : Obligations.DctStepTracksAndSubtracts := by
  intro s x rest hDem
  refine ⟨stepTurn_of_unitKey rfl (unitKey_dct_of_cons hDem), fun hRoom => ?_, fun hFull => ?_⟩
  · have hOn : DctStepEnabled x s :=
      ⟨by rw [hDem, List.head?_cons], (full_eq_false_iff ..).mpr hRoom⟩
    refine (exec_dctStep_enabled hOn).trans ?_
    rw [hDem, pop_cons, dcCorrected_eq_div, trackedEstimate_eq_div]
    rfl
  · refine exec_of_not_opEnabled (u := .dct) rfl fun ⟨_, hRoom⟩ => ?_
    exact absurd ((full_eq_false_iff ..).mp hRoom) (Nat.not_lt.mpr hFull)

/-- Settles O55: the gain moves the estimate part of the way to the input, so it stays between two values that fit the
register, and what is left of the input fits the token. -/
theorem estimateStaysBetweenOldAndInput : Obligations.EstimateStaysBetweenOldAndInput := by
  intro alpha est x target e
  obtain ⟨hMin, hMax⟩ : min est.toInt target ≤ e ∧ e ≤ max est.toInt target :=
    trackedEstimate_between alpha est x
  exact ⟨hMin, hMax, toInt_ofInt_trackedEstimate alpha est x, dcCorrected_bounds alpha est x⟩

end Sys2Proof.Machine
end

section
/-! The words that TRC.EMIT writes (44_timing_recovery.md R214), and the invariant of the loop and the tracker (R210,
43_dc_tracker.md R193, 00_scope.md R15). -/

namespace Sys2Proof.Machine

/-! ## The slicer and the error term -/

/-- The slicer decides -1 exactly below zero (R209). -/
theorem slice_eq_minus_iff (y : Int) : slice y = .minus ↔ y < 0 := by
  unfold slice
  split_ifs with hy <;> simp [hy]

theorem signValue_eq_ite (d : Sign) : signValue d = if d = .minus then -1 else 1 := by
  cases d <;> rfl

/-- The decided symbol as a number (R209). -/
theorem signValue_slice (y : Int) : signValue (slice y) = if y < 0 then -1 else 1 := by
  simp only [signValue_eq_ite, slice_eq_minus_iff]

/-- The error term fits 18 bits for any register contents: 131072 itself would need `y = -65536` and the decision
`+1` on it (R210). -/
theorem timingError_range (dPrev : Sign) {y : Int} (yPrev : Dcc) (hy₁ : -65536 ≤ y)
    (hy₂ : y ≤ 65535) :
    -131072 ≤ timingError dPrev y (slice y) yPrev ∧
      timingError dPrev y (slice y) yPrev ≤ 131071 := by
  have hPrev₁ := yPrev.le_toInt
  have hPrev₂ := yPrev.toInt_lt
  rw [timingError, signValue_slice]
  cases dPrev <;> simp only [signValue] <;> split_ifs <;> omega

/-- Where the previous decision is the sign of the previous sample, the error term is at most 65536: of two numbers of
one sign it is the difference, of two of different signs the sum (R210). -/
theorem timingError_range_of_sign {dPrev : Sign} {y : Int} {yPrev : Dcc} (hy₁ : -65536 ≤ y)
    (hy₂ : y ≤ 65535) (hSign : dPrev = .minus ↔ yPrev.toInt < 0) :
    -65536 ≤ timingError dPrev y (slice y) yPrev ∧
      timingError dPrev y (slice y) yPrev ≤ 65536 := by
  have hPrev₁ := yPrev.le_toInt
  have hPrev₂ := yPrev.toInt_lt
  simp only [timingError, signValue_eq_ite, slice_eq_minus_iff, hSign]
  split_ifs <;> omega

/-! ## What is read back after TRC.EMIT -/

theorem toInt_ofInt_emitY (s : State) : (BitVec.ofInt 17 (emitY s)).toInt = emitY s := by
  obtain ⟨hLow, hHigh⟩ := emitY_bounds s
  exact toInt_ofInt_of_mem _ (by omega) (by omega)

theorem toInt_ofInt_emitError (s : State) : (BitVec.ofInt 18 (emitError s)).toInt = emitError s := by
  obtain ⟨hyLow, hyHigh⟩ := emitY_bounds s
  obtain ⟨hLow, hHigh⟩ := timingError_range s.trc.dPrev s.trc.yPrev hyLow hyHigh
  exact toInt_ofInt_of_mem _ (by rw [emitError]; omega) (by rw [emitError]; omega)

theorem emitPeriod_bounds (s : State) : 0 ≤ emitPeriod s ∧ emitPeriod s ≤ 4294967294 := by
  have hMid := s.trcOmegaMid.isLt
  have hPeriod := boundedPeriod_bounds s.trcOmegaMid s.trcOmegaRlim (emitPeriodRaw s)
  unfold emitPeriod
  omega

theorem toNat_ofInt_emitPeriod (s : State) :
    ((BitVec.ofInt 32 (emitPeriod s)).toNat : Int) = emitPeriod s := by
  obtain ⟨hLow, hHigh⟩ := emitPeriod_bounds s
  exact toNat_ofInt_of_mem _ hLow (by omega)

/-- Settles O57: each value lies within its register's range. -/
theorem loopUpdateNeverOverflows : Obligations.LoopUpdateNeverOverflows := by
  intro s
  obtain ⟨hLow, hHigh⟩ := emitPosition_bounds s
  refine ⟨⟨hLow, by omega, ?_⟩, toNat_ofInt_emitPeriod s, toInt_ofInt_emitY s,
    toInt_ofInt_emitError s⟩
  rw [shr_24]
  exact toNat_ofInt_of_mem _ (by omega) (by omega)

/-! ## The configured range of the period -/

/-- The limit on the period by natural numbers (R212 `lim`). -/
theorem periodLimit_eq_natCast (mid : Mid) (rlim : Gain) :
    periodLimit mid rlim = (mid.toNat * rlim.toNat / 2 ^ 24 : Nat) := by
  rw [periodLimit, shr_24]
  norm_cast

/-- The bounded period is within the limit of its nominal value (R213). -/
theorem boundedPeriod_within (mid : Mid) (rlim : Gain) (om1 : Int) :
    mid.toNat - periodLimit mid rlim ≤ boundedPeriod mid rlim om1 ∧
      boundedPeriod mid rlim om1 ≤ mid.toNat + periodLimit mid rlim := by
  have hLimit := periodLimit_bounds mid rlim
  dsimp only [boundedPeriod]
  split_ifs <;> omega

/-- Settles O58: the period is the bounded one, and the two degenerate settings leave its range one value. -/
theorem periodStaysInTheConfiguredRange : Obligations.PeriodStaysInTheConfiguredRange := by
  intro s t hNeed hReady h mid lim
  have hLimit : periodLimit s.trcOmegaMid s.trcOmegaRlim = lim := periodLimit_eq_natCast ..
  have hWithin : mid - (lim : Int) ≤ emitPeriod s ∧ emitPeriod s ≤ mid + lim := by
    rw [← hLimit]
    exact boundedPeriod_within ..
  have hOmega := toNat_ofInt_emitPeriod s
  obtain ⟨-, rfl⟩ | ⟨hOff, -⟩ := execTrcEmit_cases h
  · dsimp only
    refine ⟨by omega, by omega, fun hRlim => ?_, fun hMid => ?_⟩
    · have hLim : lim = 0 := by simp [lim, hRlim]
      omega
    · have hMid₀ : mid = 0 := by simp [mid, hMid]
      have hLim : lim = 0 := by simp [lim, hMid₀]
      have hPeriod : emitPeriod s = 0 := by omega
      rw [hPeriod]
      rfl
  · exact absurd ⟨hNeed, hReady⟩ hOff

/-! ## The invariant of the loop and the tracker -/

/-- The registers of the loop are in their ranges, and the previous decision is the sign of the previous sample. -/
def Trc.loopOk (r : Trc) : Prop :=
  (r.dPrev = .minus ↔ r.yPrev.toInt < 0) ∧ -65536 ≤ r.err.toInt ∧ r.err.toInt ≤ 65536 ∧
    r.omega.toNat ≤ 4294967294

/-- The estimate is at most the largest input (R193). -/
def estimateOk (est : Est) : Prop := est.toInt ≤ 32767 * 16777216

theorem loopOk_iff (s : State) : loopOk s ↔ s.trc.loopOk ∧ estimateOk s.dctEst := by
  unfold loopOk Trc.loopOk estimateOk
  tauto

/-- At the start of a stream nothing is decided and the period is the nominal one, which has 31 bits. -/
theorem Trc.loopOk_trcAtStart (s : State) : (trcAtStart s).loopOk := by
  have hMid := s.trcOmegaMid.isLt
  dsimp only [Trc.loopOk, trcAtStart]
  refine ⟨by decide, by decide, by decide, ?_⟩
  rw [BitVec.toNat_setWidth_of_le (by decide)]
  omega

theorem estimateOk_zero : estimateOk 0 := by
  unfold estimateOk
  decide

/-- TRC.EMIT decides by the sign of the sample it keeps, and with the previous decision so decided its error is at
most 65536. -/
theorem Trc.loopOk_emit {s t : State} (hs : s.trc.loopOk) (h : execTrcEmit s = .next t) :
    t.trc.loopOk := by
  obtain ⟨-, rfl⟩ | ⟨-, rfl⟩ := execTrcEmit_cases h
  · obtain ⟨hSign, -⟩ := hs
    obtain ⟨hyLow, hyHigh⟩ := emitY_bounds s
    obtain ⟨hErr₁, hErr₂⟩ := timingError_range_of_sign hyLow hyHigh hSign
    have hOmega : (BitVec.ofInt 32 (emitPeriod s)).toNat ≤ 4294967294 := by
      have hKept := toNat_ofInt_emitPeriod s
      have hPeriod := emitPeriod_bounds s
      omega
    rw [Trc.loopOk, toInt_ofInt_emitY, toInt_ofInt_emitError]
    exact ⟨slice_eq_minus_iff _, hErr₁, hErr₂, hOmega⟩
  · exact hs

/-- The updated estimate is at most the larger of the old one and the input, which has 16 bits (R193). -/
theorem estimateOk_tracked {est : Est} (hEst : estimateOk est) (alpha : Gain) (x : Ang) :
    estimateOk (BitVec.ofInt 40 (trackedEstimate alpha est x)) := by
  obtain ⟨-, hMax⟩ := trackedEstimate_between alpha est x
  have hx := x.toInt_lt
  rw [estimateOk, toInt_ofInt_trackedEstimate]
  unfold estimateOk at hEst
  omega

/-- Every operation keeps the invariant: only DCT moves the estimate, only TRC moves the loop, and a restart or the
reset starts both anew. -/
theorem exec_keeps_loopOk {i : Instr} {s t : State} (hs : loopOk s) (h : exec i s = .next t) :
    loopOk t := by
  have ⟨hTrc, hEst⟩ := (loopOk_iff s).mp hs
  rw [loopOk_iff]
  cases i with
  | dctStep ang =>
    obtain ⟨-, rfl⟩ | ⟨-, rfl⟩ := execDctStep_cases h
    · exact ⟨hTrc, estimateOk_tracked hEst ..⟩
    · exact ⟨hTrc, hEst⟩
  | trcShift dcc => obtain ⟨-, rfl⟩ | ⟨-, rfl⟩ := execTrcShift_cases h <;> exact ⟨hTrc, hEst⟩
  | trcEmit =>
    have hf := exec_unitFrame rfl h
    exact ⟨Trc.loopOk_emit hTrc h, by rw [hf]; exact hEst⟩
  | sprLoad _ | sprEmit _ | pshLoad _ _ | pshEmit _ | qdmStep _ _ =>
    have hf := exec_unitFrame rfl h
    rw [hf]
    exact ⟨hTrc, hEst⟩
  | _ =>
    obtain ⟨-, rfl⟩ | ⟨-, rfl⟩ | ⟨-, rfl⟩ | ⟨-, rfl⟩ | hf := exec_host_cases rfl h
    · exact ⟨hTrc, hEst⟩
    · exact ⟨Trc.loopOk_trcAtStart _, estimateOk_zero⟩
    · exact ⟨Trc.loopOk_trcAtStart _, estimateOk_zero⟩
    · exact ⟨Trc.loopOk_trcAtStart _, estimateOk_zero⟩
    · rw [hf]
      exact ⟨hTrc, hEst⟩

/-- Settles O34: neither taking the turn nor the environment reaches the loop or the estimate, and every operation
keeps the invariant. -/
theorem stepKeepsTheLoopInvariant : Obligations.StepKeepsTheLoopInvariant := by
  intro s t hs h
  have hTaken : loopOk (takeTurn s).2 := by
    rw [takeTurn_frame]
    exact hs
  rw [step] at h
  obtain ⟨-, he⟩ | ⟨key, i, -, -, he⟩ := stepTurn_cases (takeTurn s).1 (takeTurn s).2 <;> rw [he] at h
  · cases h
    rw [environment_frame]
    exact hTaken
  · exact exec_keeps_loopOk hTaken h

end Sys2Proof.Machine
end

section
/-! The numbers of the interpolator with the table of R33 (44_timing_recovery.md R208). -/

namespace Sys2Proof.Machine

/-! ## Sums of products -/

/-- The sum of the products of two lists of signed words, entry by entry. -/
def dotProduct {m n : Nat} (xs : List (BitVec m)) (cs : List (BitVec n)) : Int :=
  (List.zipWith (fun x c => x.toInt * c.toInt) xs cs).sum

theorem dotProduct_cons {m n : Nat} (x : BitVec m) (xs : List (BitVec m)) (c : BitVec n)
    (cs : List (BitVec n)) :
    dotProduct (x :: xs) (c :: cs) = x.toInt * c.toInt + dotProduct xs cs := by
  simp [dotProduct]

/-- Equal factors on one side come out of the sum. -/
theorem dotProduct_of_forall_eq {m n : Nat} {v : BitVec m} {xs : List (BitVec m)}
    {cs : List (BitVec n)} (hLen : xs.length = cs.length) (hAll : ∀ x ∈ xs, x = v) :
    dotProduct xs cs = v.toInt * (cs.map BitVec.toInt).sum := by
  induction xs generalizing cs with
  | nil =>
    obtain rfl : cs = [] := List.eq_nil_of_length_eq_zero hLen.symm
    simp [dotProduct]
  | cons x xs ih =>
    obtain ⟨rfl, hRest⟩ := List.forall_mem_cons.mp hAll
    cases cs with
    | nil => cases hLen
    | cons c cs =>
      rw [dotProduct_cons, ih (Nat.succ.inj hLen) hRest, List.map_cons, List.sum_cons, mul_add]

/-- Factors of at most `b` give at most `b` times the sum of the magnitudes on the other side. -/
theorem abs_dotProduct_le {m n : Nat} {b : Int} (hb : 0 ≤ b) (xs : List (BitVec m))
    (cs : List (BitVec n)) (hAll : ∀ x ∈ xs, |x.toInt| ≤ b) :
    |dotProduct xs cs| ≤ b * (cs.map (|·.toInt|)).sum := by
  induction xs generalizing cs with
  | nil =>
    have hSum : 0 ≤ (cs.map (|·.toInt|)).sum := List.sum_nonneg (by simp)
    simpa [dotProduct] using mul_nonneg hb hSum
  | cons x xs ih =>
    obtain ⟨hHead, hRest⟩ := List.forall_mem_cons.mp hAll
    cases cs with
    | nil => simp [dotProduct]
    | cons c cs =>
      calc |dotProduct (x :: xs) (c :: cs)|
        _ ≤ |x.toInt * c.toInt| + |dotProduct xs cs| := by
          rw [dotProduct_cons]
          exact abs_add_le _ _
        _ ≤ b * |c.toInt| + b * (cs.map (|·.toInt|)).sum := by
          rw [abs_mul]
          exact add_le_add (mul_le_mul_of_nonneg_right hHead (abs_nonneg _)) (ih cs hRest)
        _ = b * ((c :: cs).map (|·.toInt|)).sum := by rw [List.map_cons, List.sum_cons, mul_add]

/-! ## The accumulator -/

theorem toList_of_eight {α : Type} (v : Vector α 8) :
    v.toList = [v[0], v[1], v[2], v[3], v[4], v[5], v[6], v[7]] := by
  refine List.ext_getElem (by simp) fun i hi _ => ?_
  rw [Vector.length_toList] at hi
  interval_cases i <;> simp

theorem tapSum_eq_dotProduct (win : Vector Dcc 8) (row : Vector Coef 8) :
    tapSum win row = dotProduct win.toList row.toList := by
  rw [toList_of_eight win, toList_of_eight row]
  simp only [dotProduct, List.zipWith_cons_cons, List.zipWith_nil_left, List.sum_cons, List.sum_nil,
    tapSum]
  ring

/-- Every row of R33 sums to 16384, which is 1. -/
theorem coefTable_row_sum (i : Fin 33) : (coefTable[i].toList.map BitVec.toInt).sum = 16384 := by
  revert i
  decide

/-- The magnitudes of a row of R33 sum to at most 26196, that of the middle row. -/
theorem coefTable_row_abs_sum_le (i : Fin 33) :
    (coefTable[i].toList.map (|·.toInt|)).sum ≤ 26196 := by
  revert i
  decide

/-- The default build interpolates with the table of R33. -/
theorem default_irom : Build.default.irom = coefTable := rfl

theorem Dcc.abs_toInt_le (x : Dcc) : |x.toInt| ≤ 65536 := by
  have hLow := x.le_toInt
  have hHigh := x.toInt_lt
  rw [abs_le]
  omega

/-- The accumulator is at most the largest sample times the magnitudes of a row (R208). -/
theorem abs_tapSum_le (win : Vector Dcc 8) (i : Fin 33) :
    |tapSum win coefTable[i]| ≤ 1716781056 := by
  have hSum := coefTable_row_abs_sum_le i
  calc |tapSum win coefTable[i]|
    _ ≤ 65536 * (coefTable[i].toList.map (|·.toInt|)).sum := by
      rw [tapSum_eq_dotProduct]
      exact abs_dotProduct_le (by decide) _ _ fun x _ => Dcc.abs_toInt_le x
    _ ≤ 1716781056 := by omega

/-! ## The interpolated value -/

/-- A sum that is 16384 times a sample, which is the sample with 14 more fraction bits, is rounded to the sample and not
limited. -/
theorem interp_of_tapSum {b : Build} {win : Vector Dcc 8} {mu : Gain} {x : Dcc}
    (h : tapSum win b.irom[fracIndex mu] = x.toInt * 16384) : interp b win mu = x.toInt := by
  have hExact : (x.toInt * 16384 + 8192) / 16384 = x.toInt := by omega
  have hLow := x.le_toInt
  have hHigh := x.toInt_lt
  rw [interp, interpRaw, h, shr_14, hExact, sat_17]
  exact clamp_of_mem _ _ _ (by omega) (by omega)

/-- Fractions below 1/64 are rounded to 0. -/
theorem fracIndex_of_lt {mu : Gain} (h : mu.toNat < 2 ^ 18) : fracIndex mu = 0 :=
  Fin.ext (show (mu.toNat + 262144) / 524288 = 0 by omega)

/-- Fractions from 63/64 up are rounded to 1. -/
theorem fracIndex_of_ge {mu : Gain} (h : 2 ^ 24 - 2 ^ 18 ≤ mu.toNat) : fracIndex mu = 32 := by
  have hMu := mu.isLt
  exact Fin.ext (show (mu.toNat + 262144) / 524288 = 32 by omega)

/-- The first row picks `win[3]`. -/
theorem tapSum_first_row (win : Vector Dcc 8) :
    tapSum win coefTable[(0 : Fin 33)] = win[3].toInt * 16384 := by
  simp [tapSum, coefTable, coefRow]

/-- The last row picks `win[4]`. -/
theorem tapSum_last_row (win : Vector Dcc 8) :
    tapSum win coefTable[(32 : Fin 33)] = win[4].toInt * 16384 := by
  simp [tapSum, coefTable, coefRow]

/-- Settles O56: the sum of a row, the two end rows and the magnitudes of a row, each a fact of the table. -/
theorem interpolatorIsExactOnConstants : Obligations.InterpolatorIsExactOnConstants := by
  intro win mu
  have hAcc : |tapSum win Build.default.irom[fracIndex mu]| ≤ 1716781056 := by
    rw [default_irom]
    exact abs_tapSum_le win (fracIndex mu)
  refine ⟨fun hAll => ?_, fun hMu => ?_, fun hMu => ?_, hAcc, ?_⟩
  · refine interp_of_tapSum ?_
    rw [default_irom, tapSum_eq_dotProduct, dotProduct_of_forall_eq (by simp) hAll,
      coefTable_row_sum]
  · refine interp_of_tapSum ?_
    simp only [default_irom, fracIndex_of_lt hMu, tapSum_first_row]
  · refine interp_of_tapSum ?_
    simp only [default_irom, fracIndex_of_ge hMu, tapSum_last_row]
  · rw [interpRaw, shr_14]
    rw [abs_le] at hAcc ⊢
    omega

end Sys2Proof.Machine
end

section
/-! TRC.SHIFT and TRC.EMIT and the words that select them (44_timing_recovery.md R211, R212). -/

namespace Sys2Proof.Machine

/-! ## TRC.SHIFT -/

/-- Where samples are needed TRC is selected by the oldest sample (R105). -/
theorem unitKey_trc_of_cons {s : State} {x : Dcc} {rest : List Dcc} (hNeed : s.trc.need ≠ 0)
    (hDcc : s.chDcc = x :: rest) : unitKey .trc s = some (encode (.trcShift x)) :=
  (if_neg hNeed).trans (by rw [hDcc]; rfl)

/-- The window without its oldest sample and with the new one last (R211). -/
theorem toList_shiftWindow (win : Vector Dcc 8) (x : Dcc) :
    (shiftWindow win x).toList = win.toList.tail ++ [x] := by
  rw [toList_of_eight win]
  rfl

/-- The registers of TRC with one more sample taken (R211). -/
def Trc.shift (r : Trc) (x : Dcc) : Trc :=
  { r with win := shiftWindow r.win x, need := r.need - 1 }

/-- TRC.SHIFT where it is enabled. -/
theorem exec_trcShift_enabled {s : State} {x : Dcc} (h : TrcShiftEnabled x s) :
    exec (.trcShift x) s = .next { s with chDcc := pop s.chDcc, trc := s.trc.shift x } :=
  if_pos h

/-- Settles O7: the oldest sample selects TRC.SHIFT, which is enabled wherever it is selected. -/
theorem trcShiftMovesTheWindow : Obligations.TrcShiftMovesTheWindow := by
  intro s x rest hDcc hNeed
  refine ⟨stepTurn_of_unitKey rfl (unitKey_trc_of_cons hNeed hDcc), _,
    toList_shiftWindow s.trc.win x, ?_⟩
  rw [exec_trcShift_enabled ⟨hNeed, by rw [hDcc, List.head?_cons]⟩, hDcc, pop_cons]
  rfl

/-! ## TRC.EMIT -/

/-- Where no sample is needed TRC is selected by its counter, whether or not the decision is accepted (R105). -/
theorem unitKey_trc_of_zero {s : State} (hNeed : s.trc.need = 0) :
    unitKey .trc s = some (encode .trcEmit) := by
  simp [unitKey, encode, trcWord, hNeed]

/-- TRC.EMIT where it is enabled. -/
theorem exec_trcEmit_enabled {s : State} (h : TrcEmitEnabled s) :
    exec .trcEmit s =
      .next { s with
        sticky :=
          setFlagIf (emitDiverges s) .loopDiv (setFlagIf (emitSaturates s) .intSat s.sticky)
        trc :=
          { win := s.trc.win
            need := BitVec.ofInt 9 (shr (emitPosition s) 24)
            mu := BitVec.ofInt 24 (emitPosition s)
            omega := BitVec.ofInt 32 (emitPeriod s)
            yPrev := BitVec.ofInt 17 (emitY s)
            dPrev := slice (emitY s)
            err := BitVec.ofInt 18 (emitError s) }
        decOut :=
          push s.decOut
            (packDecision (hardBit (slice (emitY s))) (BitVec.ofInt 17 (emitY s))) } :=
  if_pos h

/-- The row of IROM as an entry of a list. -/
theorem irom_eq_getD (b : Build) (mu : Gain) :
    b.irom[fracIndex mu] =
      b.irom.toList.getD ((mu.toNat + 2 ^ 18) / 2 ^ 19) #v[0, 0, 0, 0, 0, 0, 0, 0] := by
  have hLt : (mu.toNat + 2 ^ 18) / 2 ^ 19 < b.irom.toList.length := by
    rw [Vector.length_toList]
    exact (fracIndex mu).isLt
  rw [List.getD_eq_getElem _ _ hLt, Vector.getElem_toList]
  rfl

/-- The rounded sum by floor division (R208). -/
theorem interpRaw_eq_div (b : Build) (win : Vector Dcc 8) (mu : Gain) :
    interpRaw b win mu =
      (dotProduct win.toList
        (b.irom.toList.getD ((mu.toNat + 2 ^ 18) / 2 ^ 19) #v[0, 0, 0, 0, 0, 0, 0, 0]).toList
          + 8192) / 2 ^ 14 := by
  rw [interpRaw, shr_14, tapSum_eq_dotProduct, irom_eq_getD]
  rfl

theorem correction_eq_div (gain : Gain) (e : Int) :
    correction gain e = (gain.toNat : Int) * e / 2 ^ 13 := by
  rw [correction, shr_13]
  rfl

theorem periodLimit_eq_div (mid : Mid) (rlim : Gain) :
    periodLimit mid rlim = (mid.toNat : Int) * (rlim.toNat : Int) / 2 ^ 24 := by
  rw [periodLimit, shr_24]
  rfl

/-- An event is recorded by its bit where its condition holds. -/
theorem setFlagIf_eq_or (c : Bool) (e : Event) (flags : BitVec 5) :
    setFlagIf c e flags = flags ||| if c then BitVec.twoPow 5 (eventCode e) else 0 := by
  cases c
  · exact (BitVec.or_zero).symm
  · rfl

theorem emitSaturates_iff (s : State) :
    emitSaturates s = true ↔ emitY s ≠ interpRaw s.build s.trc.win s.trc.mu :=
  bne_iff_ne

theorem emitDiverges_iff (s : State) :
    emitDiverges s = true ↔ emitPeriod s ≠ emitPeriodRaw s ∨ emitPositionRaw s < 0 := by
  simp [emitDiverges]

/-- The D18 token of a decision, its hard bit by the slicer (R209, R103). -/
theorem packDecision_slice (y : Int) (soft : Dcc) :
    packDecision (hardBit (slice y)) soft = (if y < 0 then (0 : BitVec 1) else 1) ++ soft := by
  unfold slice
  split_ifs <;> rfl

/-- Only the fraction of the position is kept in `mu` (R212). -/
theorem ofInt_24_emod (t : Int) : BitVec.ofInt 24 (t % 2 ^ 24) = BitVec.ofInt 24 t := by
  apply BitVec.eq_of_toNat_eq
  simp

/-- Settles O8: the counter selects TRC.EMIT, the acceptance of DEC_OUT is the rest of its enabling condition, and each
value of the pseudocode is the one the model names. -/
theorem trcEmitDecidesAndUpdatesTheLoop : Obligations.TrcEmitDecidesAndUpdatesTheLoop := by
  intro s hNeed
  refine ⟨stepTurn_of_unitKey rfl (unitKey_trc_of_zero hNeed), ?_, fun hWait => ?_⟩
  · intro hReady row acc y0 y d dPrev e go om1 lim lo hi om2 gm t0 t
    have hY0 : interpRaw s.build s.trc.win s.trc.mu = y0 := interpRaw_eq_div ..
    have hY : emitY s = y := by
      rw [emitY, interp, hY0]
      rfl
    have hE : emitError s = e := by
      rw [emitError, timingError, hY, signValue_slice, signValue_eq_ite]
    have hOm1 : emitPeriodRaw s = om1 := by
      rw [emitPeriodRaw, correction_eq_div, hE]
    have hOm2 : emitPeriod s = om2 := by
      rw [emitPeriod, boundedPeriod, periodLimit_eq_div, hOm1]
    have hT0 : emitPositionRaw s = t0 := by
      rw [emitPositionRaw, correction_eq_div, hE, hOm2]
    have hT : emitPosition s = t := by
      rw [emitPosition, hT0]
    rw [exec_trcEmit_enabled ⟨hNeed, hReady⟩, setFlagIf_eq_or, setFlagIf_eq_or, packDecision_slice,
      ofInt_24_emod, shr_24, push]
    simp only [emitSaturates_iff, emitDiverges_iff, hY0, hY, hE, hOm1, hOm2, hT0, hT]
    rfl
  · refine exec_of_not_opEnabled (u := .trc) rfl fun ⟨_, hReady⟩ => ?_
    rw [hWait] at hReady
    cases hReady

end Sys2Proof.Machine
end

section
/-! Samples through QDM, DCT and TRC until the window is full (44_timing_recovery.md R211, R218): first what a number of
samples leaves in TRC's registers, then the turns that take them. -/

namespace Sys2Proof.Machine

/-! ## The registers of TRC after a number of samples -/

/-- The registers of TRC with these samples taken, oldest first. -/
def Trc.shiftAll (r : Trc) (xs : List Dcc) : Trc := xs.foldl Trc.shift r

theorem Trc.shiftAll_append_singleton (r : Trc) (xs : List Dcc) (x : Dcc) :
    r.shiftAll (xs ++ [x]) = (r.shiftAll xs).shift x :=
  List.foldl_concat ..

/-- Samples go into the window and count `need` down, and nothing else. -/
theorem Trc.shiftAll_frame (r : Trc) (xs : List Dcc) :
    r.shiftAll xs =
      { r with win := (r.shiftAll xs).win, need := r.need - BitVec.ofNat 9 xs.length } := by
  induction xs generalizing r with
  | nil => simp [shiftAll]
  | cons x xs ih =>
    have hCount : r.need - 1 - BitVec.ofNat 9 xs.length = r.need - BitVec.ofNat 9 (xs.length + 1) := by
      rw [BitVec.ofNat_add]
      bv_omega
    refine (ih (r.shift x)).trans ?_
    rw [List.length_cons, ← hCount]
    rfl

/-- The window after these samples is the last eight of the old window and the samples. -/
theorem Trc.toList_shiftAll_win (r : Trc) (xs : List Dcc) :
    (r.shiftAll xs).win.toList = (r.win.toList ++ xs).drop xs.length := by
  induction xs generalizing r with
  | nil => simp [shiftAll]
  | cons x xs ih =>
    have hNonempty : r.win.toList ≠ [] := by simp [toList_of_eight]
    calc (r.shiftAll (x :: xs)).win.toList
      _ = (r.win.toList.tail ++ [x] ++ xs).drop xs.length := by
        rw [← toList_shiftWindow]
        exact ih (r.shift x)
      _ = (r.win.toList ++ x :: xs).tail.drop xs.length := by
        rw [List.tail_append_of_ne_nil hNonempty, List.append_assoc, List.singleton_append]
      _ = (r.win.toList ++ x :: xs).drop (x :: xs).length := by
        rw [List.drop_tail, List.length_cons]

/-- Eight samples are the whole window. -/
theorem Trc.shiftAll_eight {r : Trc} (hNeed : r.need = 8) (xs : Vector Dcc 8) :
    r.shiftAll xs.toList = { r with win := xs, need := 0 } := by
  have hWin : (r.shiftAll xs.toList).win = xs :=
    Vector.toList_inj.mp (by rw [toList_shiftAll_win]; simp)
  rw [shiftAll_frame, hWin, hNeed, Vector.length_toList]
  rfl

/-- While fewer samples are taken than were needed, more are needed. -/
theorem Trc.shiftAll_need_ne_zero {r : Trc} {xs : List Dcc} (h : xs.length < r.need.toNat) :
    (r.shiftAll xs).need ≠ 0 := by
  have hNeed := r.need.isLt
  rw [shiftAll_frame]
  dsimp only
  bv_omega

/-! ## Samples that wait in CH_DCC -/

/-- The turn in which TRC takes the oldest sample (R211). -/
theorem unitStep_trc_shift {s : State} {x : Dcc} (hNeed : s.trc.need ≠ 0)
    (hHead : s.chDcc.head? = some x) :
    unitStep .trc s = .next { s with chDcc := pop s.chDcc, trc := s.trc.shift x } := by
  have hOn : TrcShiftEnabled x s := ⟨hNeed, hHead⟩
  rw [unitStep_eq_exec (i := .trcShift x) rfl hOn, exec_trcShift_enabled hOn]

/-- Turns of TRC take the samples that wait, as far as they are needed. -/
theorem runUnits_trc_shifts {s : State} {xs rest : List Dcc} (hDcc : s.chDcc = xs ++ rest)
    (hNeed : xs.length ≤ s.trc.need.toNat) :
    runUnits (List.replicate xs.length .trc) s =
      .next { s with chDcc := rest, trc := s.trc.shiftAll xs } := by
  induction xs generalizing s with
  | nil =>
    rw [List.nil_append] at hDcc
    rw [← hDcc]
    rfl
  | cons x xs ih =>
    rw [List.length_cons] at hNeed ⊢
    have hDue : s.trc.need ≠ 0 := by bv_omega
    have hLeft : xs.length ≤ (s.trc.need - 1).toNat := by bv_omega
    rw [List.replicate_succ, runUnits_cons (unitStep_trc_shift hDue (by rw [hDcc]; rfl)), hDcc]
    exact ih rfl hLeft

/-! ## Samples that come one by one -/

/-- Before each step of TRC the samples of the steps before it are in the registers. -/
theorem trc_before_step {xs : Vector Dcc 8} {before after : Fin 8 → State}
    (hNeed : (before 0).trc.need = 8) (hHead : ∀ i, (before i).chDcc.head? = some xs[i])
    (hStep : ∀ i, unitStep .trc (before i) = .next (after i))
    (hQuiet : ∀ i : Fin 7, (before i.succ).trc = (after i.castSucc).trc) (i : Fin 8) :
    (before i).trc = (before 0).trc.shiftAll (xs.toList.take i) ∧
      (after i).trc = (before 0).trc.shiftAll (xs.toList.take (i + 1)) := by
  have hAfter (i : Fin 8) (hi : (before i).trc = (before 0).trc.shiftAll (xs.toList.take i)) :
      (after i).trc = (before 0).trc.shiftAll (xs.toList.take (i + 1)) := by
    have hDue : (before i).trc.need ≠ 0 := by
      rw [hi]
      exact Trc.shiftAll_need_ne_zero (by simp [hNeed])
    have hNext := (hStep i).symm.trans (unitStep_trc_shift hDue (hHead i))
    have hTake : xs.toList.take (i + 1) = xs.toList.take i ++ [xs[i]] := by
      simp [List.take_add_one]
    rw [Host.Outcome.next.inj hNext, hi, hTake, Trc.shiftAll_append_singleton]
  induction i using Fin.induction with
  | zero => exact ⟨rfl, hAfter 0 rfl⟩
  | succ i ih =>
    have hi := (hQuiet i).trans ih.2
    exact ⟨hi, hAfter _ hi⟩

/-! ## Samples made by QDM and DCT -/

/-- The turn in which QDM takes the oldest sample (R172). -/
theorem unitStep_qdm_step {s : State} {w : CplxWord} {rest : List CplxWord}
    (hIn : s.rxsIn = w :: rest) (hRun : rxRun s = true) (hRoom : s.chDem.length < s.build.chDepth) :
    unitStep .qdm s = .next { s with
      rxsIn := rest
      sticky := setFlagIf (productZero (unpackCplx w) s.qdmPrev) .zeroMag s.sticky
      chDem := push s.chDem (demodulate s.build (unpackCplx w) s.qdmPrev)
      qdmPrev := unpackCplx w } := by
  have hOn : QdmStepEnabled (cplxIm w) (cplxRe w) s :=
    ⟨hRun, by rw [hIn, packCplx_fields]; rfl, (full_eq_false_iff ..).mpr hRoom⟩
  rw [unitStep_eq_exec (i := .qdmStep _ _) rfl hOn, exec_qdmStep_enabled hOn, hIn]
  rfl

/-- The turn in which DCT takes the oldest angle (R192). -/
theorem unitStep_dct_step {s : State} {x : Ang} {rest : List Ang} (hDem : s.chDem = x :: rest)
    (hRoom : s.chDcc.length < s.build.chDepth) :
    unitStep .dct s = .next { s with
      chDem := rest
      dctEst := BitVec.ofInt 40 (trackedEstimate s.dctAlpha s.dctEst x)
      chDcc := push s.chDcc (BitVec.ofInt 17 (dcCorrected s.dctAlpha s.dctEst x)) } := by
  have hOn : DctStepEnabled x s := ⟨by rw [hDem]; rfl, (full_eq_false_iff ..).mpr hRoom⟩
  rw [unitStep_eq_exec (i := .dctStep _) rfl hOn, exec_dctStep_enabled hOn, hDem]
  rfl

/-- The turns in which QDM, DCT and TRC take one sample of RXS_IN. -/
def sampleTurns : List Unit5 := [.qdm, .dct, .trc]

/-- The turns of one sample, where the channels are empty before them and a sample is needed (R172, R192, R211). -/
theorem runUnits_sampleTurns {s : State} {w : CplxWord} {rest : List CplxWord}
    (hIn : s.rxsIn = w :: rest) (hRun : rxRun s = true) (hDem : s.chDem = []) (hDcc : s.chDcc = [])
    (hNeed : s.trc.need ≠ 0) (hDepth : 1 ≤ s.build.chDepth) :
    runUnits sampleTurns s = .next { s with
      rxsIn := rest
      qdmPrev := unpackCplx w
      sticky := setFlagIf (productZero (unpackCplx w) s.qdmPrev) .zeroMag s.sticky
      dctEst := BitVec.ofInt 40
        (trackedEstimate s.dctAlpha s.dctEst (demodulate s.build (unpackCplx w) s.qdmPrev))
      trc := s.trc.shift (BitVec.ofInt 17
        (dcCorrected s.dctAlpha s.dctEst (demodulate s.build (unpackCplx w) s.qdmPrev))) } := by
  rw [sampleTurns, runUnits_cons (unitStep_qdm_step hIn hRun (room_of_empty hDepth hDem)), hDem]
  refine (runUnits_cons (unitStep_dct_step rfl ?_) _).trans ?_
  · exact room_of_empty hDepth hDcc
  · rw [hDcc]
    refine runUnits_cons (unitStep_trc_shift ?_ rfl) []
    exact hNeed

/-- The turns of several samples, as far as they are needed. -/
theorem runUnits_sampleTurns_replicate {s : State} {ws rest : List CplxWord}
    (hIn : s.rxsIn = ws ++ rest) (hRun : rxRun s = true) (hDem : s.chDem = []) (hDcc : s.chDcc = [])
    (hNeed : ws.length ≤ s.trc.need.toNat) (hDepth : 1 ≤ s.build.chDepth) :
    ∃ est flags, runUnits (List.replicate ws.length sampleTurns).flatten s = .next { s with
      rxsIn := rest, qdmPrev := (ws.map unpackCplx).getLastD s.qdmPrev, dctEst := est
      sticky := flags
      trc := s.trc.shiftAll (dccStream s.build s.dctAlpha s.qdmPrev s.dctEst ws) } := by
  induction ws generalizing s with
  | nil =>
    rw [List.nil_append] at hIn
    rw [← hIn]
    exact ⟨s.dctEst, s.sticky, rfl⟩
  | cons w ws ih =>
    rw [List.length_cons] at hNeed ⊢
    have hDue : s.trc.need ≠ 0 := by bv_omega
    have hLeft : ws.length ≤ (s.trc.need - 1).toNat := by bv_omega
    rw [List.replicate_succ, List.flatten_cons,
      runUnits_append (runUnits_sampleTurns hIn hRun hDem hDcc hDue hDepth), List.map_cons,
      List.getLastD_cons]
    exact ih rfl hRun hDem hDcc hLeft hDepth

theorem length_dccStream (b : Build) (alpha : Gain) (prev : Cplx) (est : Est) (ws : List CplxWord) :
    (dccStream b alpha prev est ws).length = ws.length := by
  induction ws generalizing prev est with
  | nil => rfl
  | cons w ws ih => simp [dccStream, ih]

/-- Settles O48: in each of the three ways eight samples reach the registers of TRC, and eight samples are the whole
window. -/
theorem eightShiftsFillTheWindow : Obligations.EightShiftsFillTheWindow := by
  refine ⟨fun s xs rest hDcc hNeed => ?_, fun xs before after hNeed hHead hStep hQuiet => ?_,
    fun s ws rest hIn hRun hDem hDcc hNeed hDepth => ?_⟩
  · have hRuns := runUnits_trc_shifts hDcc (by simp [hNeed])
    rwa [Vector.length_toList, Trc.shiftAll_eight hNeed] at hRuns
  · obtain ⟨-, hLast⟩ := trc_before_step hNeed hHead hStep hQuiet 7
    rw [hLast, ← Trc.shiftAll_eight hNeed]
    congr 1
    exact List.take_of_length_le (by simp)
  · obtain ⟨est, flags, hRuns⟩ :=
      runUnits_sampleTurns_replicate hIn hRun hDem hDcc (by simp [hNeed]) hDepth
    have hLen := length_dccStream s.build s.dctAlpha s.qdmPrev s.dctEst ws.toList
    rw [Vector.length_toList] at hLen hRuns
    obtain ⟨win, hWin⟩ : ∃ win : Vector Dcc 8,
        win.toList = dccStream s.build s.dctAlpha s.qdmPrev s.dctEst ws.toList :=
      ⟨⟨⟨_⟩, hLen⟩, rfl⟩
    refine ⟨est, flags, win, hWin, ?_⟩
    rw [← hWin, Trc.shiftAll_eight hNeed] at hRuns
    refine hRuns.trans ?_
    rw [toList_of_eight ws]
    rfl

end Sys2Proof.Machine
end

section
/-! The turns of the host, by what its word says (30_encoding.md R104, R107), and the state after each command and the
reset (45_host_operations.md section 4). -/

namespace Sys2Proof.Machine

/-! ## The turns of the host -/

/-- A word with `we` = 0 reads its address (45_host_operations.md R241). -/
theorem stepTurn_host_read {w : HostWord} (hRead : hostWe w = false) (s : State) :
    stepTurn (.host w) s = exec (.hostRd (hostAddrOf w) (hostDataOf w)) s := by
  have hDecode : decodeHost w = .hostRd (hostAddrOf w) (hostDataOf w) := by
    simp [decodeHost, hRead]
  exact congrArg (exec · s) hDecode

/-- A word with `we` = 1 is a write of its data to its address. -/
theorem stepTurn_host_write {w : HostWord} (hWrite : hostWe w = true) (s : State) :
    stepTurn (.host w) s = exec (decodeWrite (hostAddrOf w) (hostDataOf w)) s := by
  have hDecode : decodeHost w = decodeWrite (hostAddrOf w) (hostDataOf w) := if_pos hWrite
  exact congrArg (exec · s) hDecode

/-- A word that matches the row of an address is a write of its data to that address (R107). -/
theorem stepTurn_host_of_match {w : HostWord} {a : HostAddr}
    (hMatch : w &&& 0x1FF00000000 = packHost true a 0) (s : State) :
    stepTurn (.host w) s = exec (decodeWrite a (hostDataOf w)) s := by
  obtain ⟨hWrite, rfl⟩ := (addr_mask_iff w a).mp hMatch
  exact stepTurn_host_write hWrite s

/-- The write of a code to CMD runs the code's command (R108). -/
theorem stepTurn_host_command (code : HostData) (s : State) :
    stepTurn (.host (packHost true 0x08 code)) s = exec (decodeCmd code) s :=
  congrArg (exec · s) (decodeHost_packHost_true 0x08 code)

/-! ## The restarts, a second time -/

theorem restartTx_restartTx (s : State) : restartTx (restartTx s) = restartTx s := rfl

/-- The start of the stream depends on the configuration registers alone, which a restart keeps (R256). -/
theorem restartRx_restartRx (s : State) : restartRx (restartRx s) = restartRx s := rfl

/-- The two restarts write different halves. -/
theorem restartTx_restartRx (s : State) : restartTx (restartRx s) = restartRx (restartTx s) := rfl

/-- The restarts of both halves (R257). -/
def restartBoth (s : State) : State := restartRx (restartTx s)

theorem restartBoth_restartBoth (s : State) : restartBoth (restartBoth s) = restartBoth s := by
  simp only [restartBoth, restartTx_restartRx, restartTx_restartTx, restartRx_restartRx]

/-- The configuration defaults, and the restarts under them (70_reset_and_hazards.md R350). -/
def resetCore (s : State) : State := restartBoth (configDefaults s)

/-- The restarts keep the configuration, so after a reset the defaults are in place. -/
theorem configDefaults_resetCore (s : State) : configDefaults (resetCore s) = resetCore s := rfl

theorem restartBoth_resetCore (s : State) : restartBoth (resetCore s) = resetCore s :=
  restartBoth_restartBoth (configDefaults s)

theorem resetCore_resetCore (s : State) : resetCore (resetCore s) = resetCore s := by
  calc resetCore (resetCore s) = restartBoth (configDefaults (resetCore s)) := rfl
    _ = resetCore s := by rw [configDefaults_resetCore, restartBoth_resetCore]

theorem exec_cmdRestartTx (s : State) : exec .cmdRestartTx s = .next (restartTx s) := rfl

theorem exec_cmdRestartRx (s : State) : exec .cmdRestartRx s = .next (restartRx s) := rfl

theorem exec_cmdRestartAll (s : State) : exec .cmdRestartAll s = .next (restartBoth s) := rfl

theorem exec_reset (s : State) : exec .reset s = .next (resetCore s) := rfl

/-- The three restarts and the reset. -/
def restarts : List Instr := [.cmdRestartTx, .cmdRestartRx, .cmdRestartAll, .reset]

/-- An operation whose effect is idempotent changes nothing the second time. -/
theorem exec_again_of_idempotent {i : Instr} {f : State → State} {s t : State}
    (hExec : ∀ s, exec i s = .next (f s)) (hf : ∀ s, f (f s) = f s) (h : exec i s = .next t) :
    exec i t = .next t := by
  cases (hExec s).symm.trans h
  rw [hExec, hf]

/-- R258: the second of two restarts finds everything where the first left it. -/
theorem exec_restart_again {i : Instr} {s t : State} (hi : i ∈ restarts)
    (h : exec i s = .next t) : exec i t = .next t := by
  simp only [restarts, List.mem_cons, List.not_mem_nil, or_false] at hi
  obtain rfl | rfl | rfl | rfl := hi
  · exact exec_again_of_idempotent exec_cmdRestartTx restartTx_restartTx h
  · exact exec_again_of_idempotent exec_cmdRestartRx restartRx_restartRx h
  · exact exec_again_of_idempotent exec_cmdRestartAll restartBoth_restartBoth h
  · exact exec_again_of_idempotent exec_reset resetCore_resetCore h

/-- A restart gives the environment no decision. -/
theorem exec_restart_decOut {i : Instr} {s t : State} (hi : i ∈ restarts)
    (h : exec i s = .next t) : t.decOut = s.decOut := by
  simp only [restarts, List.mem_cons, List.not_mem_nil, or_false] at hi
  obtain rfl | rfl | rfl | rfl := hi <;> cases h <;> rfl

/-- Where the core's step puts no decision on DEC_OUT, a turn that restarts PacketSynchronizer puts it at its start and
sends no message (46_adjacent_blocks.md R292, log 12). -/
theorem Session.turn_of_restartsSink {p : FrameParams} {turn : Turn} {x : Session} {c : State}
    (hSink : restartsSink turn = true) (hStep : stepTurn turn x.core = .next c)
    (hDec : c.decOut = x.core.decOut) :
    x.turn p turn = .next { core := c, sink := PacketSink.start, bus := x.bus } := by
  simp [Session.turn, hStep, hDec, hSink, PacketSink.receiveTokens]

/-- A turn that restarts the core and PacketSynchronizer together changes nothing the second time. -/
theorem Session.turn_restart_again {p : FrameParams} {turn : Turn} {i : Instr} (hi : i ∈ restarts)
    (hTurn : ∀ s, stepTurn turn s = exec i s) (hSink : restartsSink turn = true) (x : Session) :
    ∃ y : Session, x.turn p turn = .next y ∧ y.sink = PacketSink.start ∧ y.bus = x.bus ∧
      y.turn p turn = .next y := by
  obtain ⟨c, hc⟩ := exec_answers i x.core
  exact ⟨{ core := c, sink := PacketSink.start, bus := x.bus },
    turn_of_restartsSink hSink ((hTurn _).trans hc) (exec_restart_decOut hi hc), rfl, rfl,
    turn_of_restartsSink hSink ((hTurn _).trans (exec_restart_again hi hc)) rfl⟩

/-- Settles O23: the restarts are idempotent and keep DEC_OUT, so in a session PacketSynchronizer, put at its start,
is given nothing. -/
theorem restartsAndResetAreIdempotent : Obligations.RestartsAndResetAreIdempotent := by
  refine ⟨fun s t i hi h => ⟨exec_restart_again hi h, fun hReset => ?_⟩, fun p x turn hTurn => ?_⟩
  · subst hReset
    cases (exec_reset s).symm.trans h
    rw [exec_cmdRestartAll, restartBoth_resetCore]
  · simp only [List.mem_cons, List.not_mem_nil, or_false] at hTurn
    obtain rfl | rfl | rfl := hTurn
    · exact Session.turn_restart_again (i := .reset) (by simp [restarts]) (fun _ => rfl) rfl x
    · exact Session.turn_restart_again (i := .cmdRestartRx) (by simp [restarts])
        (stepTurn_host_command 2) (by decide) x
    · exact Session.turn_restart_again (i := .cmdRestartAll) (by simp [restarts])
        (stepTurn_host_command 3) (by decide) x

/-! ## The commands -/

/-- Settles O16. -/
theorem cmdNopChangesNothing : Obligations.CmdNopChangesNothing :=
  fun s => ⟨rfl, stepTurn_host_command 0 s⟩

/-- Settles O17: the command is the restart of the transmit half. -/
theorem cmdRestartTxClearsTheTransmitHalf : Obligations.CmdRestartTxClearsTheTransmitHalf :=
  fun s => ⟨exec_cmdRestartTx s, stepTurn_host_command 1 s⟩

/-- TRC at the start of a stream, as R256 writes it. -/
theorem trcAtStart_eq (s : State) :
    trcAtStart s =
      { win := #v[0, 0, 0, 0, 0, 0, 0, 0], need := 8, mu := s.trcMuInit
        omega := BitVec.ofNat 32 s.trcOmegaMid.toNat, yPrev := 0, dPrev := .plus, err := 0 } := by
  rw [BitVec.ofNat_toNat]
  rfl

/-- Settles O18: the command is the restart of the receive half. -/
theorem cmdRestartRxStartsTheReceiveStream : Obligations.CmdRestartRxStartsTheReceiveStream := by
  refine fun s => ⟨?_, stepTurn_host_command 2 s⟩
  rw [exec_cmdRestartRx, restartRx, trcAtStart_eq]

/-- Settles O19. -/
theorem cmdRestartAllRestartsBothHalves : Obligations.CmdRestartAllRestartsBothHalves :=
  fun s => ⟨⟨restartTx s, restartBoth s, exec_cmdRestartTx s, exec_cmdRestartRx _,
    exec_cmdRestartAll s⟩, stepTurn_host_command 3 s⟩

theorem raise_badCmd (s : State) : raise .badCmd s = { s with sticky := s.sticky ||| 8 } := rfl

theorem raise_badAddr (s : State) : raise .badAddr s = { s with sticky := s.sticky ||| 0x10 } := rfl

/-- Settles O20: a code from 4 up has no command of its own, and BADCMD is bit 3. -/
theorem reservedCommandSetsBadCmd : Obligations.ReservedCommandSetsBadCmd := by
  refine fun s => ⟨fun wdata _ => congrArg Host.Outcome.next (raise_badCmd s),
    fun w hMatch hCode => ?_⟩
  have hStep := stepTurn_host_of_match (a := 0x08) hMatch s
  have hReserved : decodeCmd (hostDataOf w) = .cmdRsvd (hostDataOf w) :=
    decodeCmd_of_not_mem ((not_mem_commandCodes_iff _).mpr hCode)
  exact hStep.trans (congrArg (exec · s) hReserved)

end Sys2Proof.Machine
end

section
/-! The host's writes: what each stores, and the words that select it (45_host_operations.md R243 to R253). -/

namespace Sys2Proof.Machine

/-- Settles O12. -/
theorem hostWriteCtrlSetsTheRunBits : Obligations.HostWriteCtrlSetsTheRunBits := by
  refine fun s => ⟨fun wdata => ?_, fun w hMatch => stepTurn_host_of_match (a := 0x04) hMatch s⟩
  rw [BitVec.ofNat_toNat]
  rfl

/-- Settles O13: the mask of the clear is the low bits of the data. -/
theorem hostWriteStatusClearsTheFlagsWritten : Obligations.HostWriteStatusClearsTheFlagsWritten := by
  refine fun s => ⟨fun wdata => ⟨clearFlags (wdata.setWidth 5) s.sticky, fun i hi => ?_, rfl⟩,
    fun w hMatch => stepTurn_host_of_match (a := 0x0C) hMatch s⟩
  rw [clearFlags_bit, BitVec.getLsbD_setWidth, decide_eq_true hi, Bool.true_and]

/-- Settles O14: the register takes the low bits of the data, and the row of its address is that write's. -/
theorem configurationWriteSetsOneRegister : Obligations.ConfigurationWriteSetsOneRegister := by
  intro s wdata
  simp only [BitVec.ofNat_toNat]
  exact ⟨rfl, rfl, rfl, rfl, rfl, rfl, fun w =>
    ⟨fun h => stepTurn_host_of_match (a := 0x10) h s,
      fun h => stepTurn_host_of_match (a := 0x14) h s,
      fun h => stepTurn_host_of_match (a := 0x18) h s,
      fun h => stepTurn_host_of_match (a := 0x1C) h s,
      fun h => stepTurn_host_of_match (a := 0x20) h s,
      fun h => stepTurn_host_of_match (a := 0x24) h s⟩⟩

/-- Settles O15: BADADDR is bit 4, and the nine addresses are the writable ones. -/
theorem hostWriteElsewhereSetsBadAddr : Obligations.HostWriteElsewhereSetsBadAddr := by
  refine fun s => ⟨fun addr wdata => congrArg Host.Outcome.next (raise_badAddr s),
    fun w hWrite hAddr => ?_⟩
  have hOther : decodeWrite (hostAddrOf w) (hostDataOf w) =
      .hostWrOther (hostAddrOf w) (hostDataOf w) := decodeWrite_of_not_mem hAddr _
  exact (stepTurn_host_write hWrite s).trans (congrArg (exec · s) hOther)

end Sys2Proof.Machine
end

section
/-! The host's reads: the registers, the ROM window and the addresses that map to nothing (45_host_operations.md R241,
10_state.md R22 to R29). -/

namespace Sys2Proof.Machine

theorem exec_hostRd_of_mapped {addr : HostAddr} {s : State} {v : HostData}
    (h : hostReg addr s = some v) (wdata : HostData) :
    exec (.hostRd addr wdata) s = .next { s with hRdata := v } := by
  simp only [exec, execHostRd, h]

theorem exec_hostRd_of_unmapped {addr : HostAddr} {s : State} (h : hostReg addr s = none)
    (wdata : HostData) :
    exec (.hostRd addr wdata) s = .next { s with hRdata := 0, sticky := s.sticky ||| 0x10 } := by
  simp only [exec, execHostRd, h]
  exact congrArg Host.Outcome.next (raise_badAddr _)

/-! ## The words of the registers -/

/-- A flag moved up by `n` bits, as a number. -/
theorem ofBool_shiftLeft_eq_ofNat (b : Bool) (n : Nat) :
    (BitVec.ofBool b).setWidth 32 <<< n = BitVec.ofNat 32 (b.toNat <<< n) := by
  cases b <;> rfl

/-- The fields of STATUS do not overlap, so the word is their sum (10_state.md R26). -/
theorem statusFields_eq_sum (flags : BitVec 5) (tx rx : Bool) :
    flags.setWidth 32 ||| ((BitVec.ofBool tx).setWidth 32 <<< 8) |||
        ((BitVec.ofBool rx).setWidth 32 <<< 9) =
      BitVec.ofNat 32 (flags.toNat + 256 * tx.toNat + 512 * rx.toNat) := by
  have hFlags := flags.isLt
  have hTx := tx.toNat_lt
  have hRx := rx.toNat_lt
  have hLow : flags.toNat ||| tx.toNat <<< 8 = tx.toNat <<< 8 + flags.toNat := by
    rw [Nat.shiftLeft_add_eq_or_of_lt (by omega), Nat.or_comm]
  have hSum : flags.toNat ||| tx.toNat <<< 8 ||| rx.toNat <<< 9 =
      flags.toNat + 256 * tx.toNat + 512 * rx.toNat := by
    rw [hLow, Nat.or_comm, ← Nat.shiftLeft_add_eq_or_of_lt (by rw [Nat.shiftLeft_eq]; omega),
      Nat.shiftLeft_eq, Nat.shiftLeft_eq]
    omega
  rw [← hSum, BitVec.ofNat_or, BitVec.ofNat_or, BitVec.ofNat_toNat, ofBool_shiftLeft_eq_ofNat,
    ofBool_shiftLeft_eq_ofNat]

theorem txBusy_iff (s : State) :
    txBusy s = true ↔ s.spr.busy = true ∨ s.psh.busy = true ∨ s.chChip ≠ [] := by
  simp [txBusy, or_assoc]

theorem rxBusy_iff (s : State) :
    rxBusy s = true ↔ s.chDem ≠ [] ∨ s.chDcc ≠ [] ∨ s.trc.need = 0 := by
  simp [rxBusy, or_assoc]

theorem toNat_eq_ite_of_iff {b : Bool} {c : Prop} [Decidable c] (h : b = true ↔ c) :
    b.toNat = if c then 1 else 0 := by
  cases b <;> simp [← h]

/-- STATUS with its live busy bits, as a number (R22). -/
theorem statusWord_eq_ofNat (s : State) :
    statusWord s = BitVec.ofNat 32 (s.sticky.toNat +
      256 * (if s.spr.busy = true ∨ s.psh.busy = true ∨ s.chChip ≠ [] then 1 else 0) +
      512 * (if s.chDem ≠ [] ∨ s.chDcc ≠ [] ∨ s.trc.need = 0 then 1 else 0)) := by
  rw [statusWord, statusFields_eq_sum, toNat_eq_ite_of_iff (txBusy_iff s),
    toNat_eq_ite_of_iff (rxBusy_iff s)]

/-- The 32 bits of DCT.est that DCT_EST shows are the estimate without its low eight bits (10_state.md R28). -/
theorem extractLsb'_est_eq_ofInt (est : Est) :
    est.extractLsb' 8 32 = BitVec.ofInt 32 (est.toInt / 256) := by
  have hLt := est.isLt
  rw [← BitVec.toNat_inj, BitVec.extractLsb'_toNat, BitVec.toNat_ofInt,
    BitVec.toInt_eq_toNat_cond, Nat.shiftRight_eq_div_pow]
  split_ifs <;> omega

/-! ## The address space -/

/-- The addresses of the 14 registers. -/
def registerAddrs : List HostAddr :=
  [0x00, 0x04, 0x08, 0x0C, 0x10, 0x14, 0x18, 0x1C, 0x20, 0x24, 0x28, 0x2C, 0x30, 0x34]

/-- Outside the registers an address is in the ROM window or maps to nothing. -/
theorem hostReg_of_not_mem {addr : HostAddr} (h : addr ∉ registerAddrs) (s : State) :
    hostReg addr s =
      if addr.extractLsb' 6 2 = 1 ∧ addr.extractLsb' 0 2 = 0 then
        some (chipWord s.build (addr.extractLsb' 2 4))
      else none := by
  simp only [registerAddrs, List.mem_cons, List.not_mem_nil, or_false, not_or] at h
  obtain ⟨h00, h04, h08, h0C, h10, h14, h18, h1C, h20, h24, h28, h2C, h30, h34⟩ := h
  simp only [hostReg, if_neg, *, not_false_eq_true]

/-- The ROM window is the aligned addresses from 0x40 to 0x7C. -/
theorem romWindow_iff (addr : HostAddr) :
    (addr.extractLsb' 6 2 = 1 ∧ addr.extractLsb' 0 2 = 0) ↔
      0x40 ≤ addr.toNat ∧ addr.toNat < 0x80 ∧ addr.toNat % 4 = 0 := by
  have hLt := addr.isLt
  simp only [← BitVec.toNat_inj, BitVec.extractLsb'_toNat, Nat.shiftRight_eq_div_pow,
    BitVec.ofNat_eq_ofNat, BitVec.toNat_ofNat]
  omega

/-- The registers are the aligned addresses up to 0x34. -/
theorem mem_registerAddrs_iff (addr : HostAddr) :
    addr ∈ registerAddrs ↔ addr.toNat ≤ 0x34 ∧ addr.toNat % 4 = 0 := by
  simp only [registerAddrs, List.mem_cons, List.not_mem_nil, or_false]
  bv_omega

/-- The ROM window returns CHIP_ROM in the order of its symbols (10_state.md R30). -/
theorem hostReg_romWord (sym : Sym) (s : State) :
    hostReg (BitVec.ofNat 8 (0x40 + 4 * sym.toNat)) s =
      some (s.build.chipRom.toList.getD sym.toNat 0) := by
  have hSym := sym.isLt
  have hAddr : (BitVec.ofNat 8 (0x40 + 4 * sym.toNat)).toNat = 0x40 + 4 * sym.toNat := by
    rw [BitVec.toNat_ofNat]
    omega
  have hIndex : (BitVec.ofNat 8 (0x40 + 4 * sym.toNat)).extractLsb' 2 4 = sym := by
    rw [← BitVec.toNat_inj, BitVec.extractLsb'_toNat, hAddr, Nat.shiftRight_eq_div_pow]
    omega
  rw [hostReg_of_not_mem (by rw [mem_registerAddrs_iff]; omega),
    if_pos ((romWindow_iff _).mpr (by omega)), hIndex, chipWord_eq_getD]

/-- An address that is misaligned, in the gap below the window or above it maps to nothing. -/
theorem hostReg_unmapped {addr : HostAddr}
    (h : addr.toNat % 4 ≠ 0 ∨ addr.toNat = 0x38 ∨ addr.toNat = 0x3C ∨ 0x80 ≤ addr.toNat)
    (s : State) : hostReg addr s = none := by
  rw [hostReg_of_not_mem (by rw [mem_registerAddrs_iff]; omega),
    if_neg (by rw [romWindow_iff]; omega)]

/-- Settles O11: register by register, then the window, then the rest. -/
theorem hostReadReturnsTheMappedWord : Obligations.HostReadReturnsTheMappedWord := by
  refine fun s wdata => ⟨fun w hRead => stepTurn_host_read hRead s, fun r hr => ?_,
    fun sym => exec_hostRd_of_mapped (hostReg_romWord sym s) wdata,
    fun addr hAddr => exec_hostRd_of_unmapped (hostReg_unmapped hAddr s) wdata⟩
  apply exec_hostRd_of_mapped
  simp only [← statusWord_eq_ofNat, ← extractLsb'_est_eq_ofInt, BitVec.ofNat_toNat, List.mem_cons,
    List.not_mem_nil, or_false] at hr
  obtain rfl | rfl | rfl | rfl | rfl | rfl | rfl | rfl | rfl | rfl | rfl | rfl | rfl | rfl := hr <;>
    rfl

end Sys2Proof.Machine
end

section
/-! Stopping a half (45_host_operations.md R244, 70_reset_and_hazards.md R362). -/

namespace Sys2Proof.Machine

/-- Settles O45: a half without a step is drained from its output back, and a drained half is not busy. The run bits
only stop new input: what is said of the channels and units needs neither, and of the receive half not QDM either. -/
theorem stoppedHalfWithNoStepIsDrained : Obligations.StoppedHalfWithNoStepIsDrained := by
  refine fun s hDepth => ⟨fun _ hReady hSpr hPsh => ?_, fun _ hReady hDct hTrc => ?_⟩
  · obtain ⟨⟨hPshIdle, hChip⟩, hSprIdle, -⟩ := (transmit_noStep_iff hDepth hReady).mp ⟨hPsh, hSpr⟩
    refine ⟨hSprIdle, hPshIdle, hChip, ?_⟩
    rw [statusWord_bit8]
    exact (txBusy_eq_false_iff s).mpr ⟨hSprIdle, hPshIdle, hChip⟩
  · obtain ⟨hNeed, hDcc⟩ := (not_unitEnabled_trc_iff hReady).mp hTrc
    have hDem := (not_unitEnabled_dct_iff hDepth hDcc).mp hDct
    refine ⟨hDem, hDcc, hNeed, ?_⟩
    rw [statusWord_bit9]
    exact (rxBusy_eq_false_iff s).mpr ⟨hDem, hDcc, hNeed⟩

end Sys2Proof.Machine
end

section
/-! The blocks around the core (46_adjacent_blocks.md R281 to R291): FrameBuilder's frame in
numbers, and the run of PacketSynchronizer over one frame, field by field. -/

namespace Sys2Proof.Machine

/-! ## FrameBuilder -/

/-- A byte of a word, by division. -/
theorem extractLsb'_byte_eq_ofNat (x : BitVec 32) (j : Nat) :
    x.extractLsb' (8 * j) 8 = BitVec.ofNat 8 (x.toNat / 256 ^ j) := by
  rw [← BitVec.toNat_inj, BitVec.extractLsb'_toNat, BitVec.toNat_ofNat,
    Nat.shiftRight_eq_div_pow, Nat.pow_mul]

/-- The bytes of the access code, by division, in the order of transmission. -/
theorem codeBytes_eq_map_ofNat (p : FrameParams) :
    codeBytes p = (List.finRange 4).map fun i =>
      BitVec.ofNat 8 (p.accessCode.toNat / 256 ^ (p.codeOrder i).val) :=
  List.map_congr_left fun i _ => extractLsb'_byte_eq_ofNat p.accessCode (p.codeOrder i)

/-- R283: the low nibble first. -/
theorem byteSymbols_map_toNat (b : Byte) :
    (byteSymbols b).map BitVec.toNat = [b.toNat % 16, b.toNat / 16] := by
  have hHigh : b.toNat / 16 % 16 = b.toNat / 16 := Nat.mod_eq_of_lt (by omega)
  simp [byteSymbols, Nat.shiftRight_eq_div_pow, hHigh]

theorem flatMap_byteSymbols_length (bytes : List Byte) :
    (bytes.flatMap byteSymbols).length = 2 * bytes.length := by
  simp [List.length_flatMap, byteSymbols, Nat.mul_comm]

theorem frameSymbols_of_le {p : FrameParams} {payload : List Byte} (h255 : payload.length ≤ 255)
    (hMax : payload.length ≤ p.maxFrame) :
    frameSymbols p payload =
      some ((p.preamble ++ codeBytes p ++ [BitVec.ofNat 8 payload.length] ++ payload).flatMap
        byteSymbols) := by
  rw [frameSymbols, frameBytes, if_pos ⟨h255, hMax⟩, Option.map_some]

/-- Settles O59: byte by byte. -/
theorem frameIsSentLowNibbleFirst : Obligations.FrameIsSentLowNibbleFirst := by
  refine fun p payload h255 hMax => ⟨_, frameSymbols_of_le h255 hMax, ?_, ?_⟩
  · rw [List.map_flatMap, codeBytes_eq_map_ofNat]
    exact congrArg (List.flatMap · _) (funext byteSymbols_map_toNat)
  · rw [flatMap_byteSymbols_length]
    simp only [List.length_append, codeBytes_length, List.length_singleton]

/-! ## PacketSynchronizer, one field at a time -/

/-- PacketSynchronizer after bits that only gather in the field it reads, where `crcBit i` takes
bit `i` of the field into the CRC counter. -/
def PacketSink.gather (crcBit : Nat → Nat → Bool → Nat) (bits : List Bool) (k : PacketSink) :
    PacketSink :=
  { k with
    window := bits.foldl shiftBit k.window
    acc := k.acc ++ bits
    crc := (bits.zipIdx k.acc.length).foldl (fun r b => crcBit b.2 r b.1) k.crc }

theorem PacketSink.gather_gather (crcBit : Nat → Nat → Bool → Nat) (bits more : List Bool)
    (k : PacketSink) :
    (k.gather crcBit bits).gather crcBit more = k.gather crcBit (bits ++ more) := by
  simp [gather, List.zipIdx_append]

/-- The end of a length field (R289). -/
def endLengthField (p : FrameParams) (k : PacketSink) : PacketSink × List BusMessage :=
  let n := (byteOfBits p k.acc).toNat
  if p.maxFrame < n then (k.search, [])
  else if n = 0 then (k.search, [.frame []])
  else ({ k with phase := .readingPayload, acc := [], length := n }, [])

/-- The end of a payload (R291). -/
def endPayload (p : FrameParams) (k : PacketSink) : PacketSink × List BusMessage :=
  let payload := groupBytes p k.length k.acc
  (k.search, [if accepts p k.crc payload then .frame payload else .integrityFailure])

theorem PacketSink.receive_readingLength {k : PacketSink} (h : k.phase = .readingLength)
    (p : FrameParams) (bit : Bool) :
    k.receive p bit =
      if k.acc.length + 1 < 8 then (k.gather (fun _ => crcLengthBit p) [bit], [])
      else endLengthField p (k.gather (fun _ => crcLengthBit p) [bit]) := by
  simp [receive, h, readLengthBit, endLengthField, gather, search]

theorem PacketSink.receive_readingPayload {k : PacketSink} (h : k.phase = .readingPayload)
    (p : FrameParams) (bit : Bool) :
    k.receive p bit =
      if k.acc.length + 1 < 8 * k.length then (k.gather (crcPayloadBit p k.length) [bit], [])
      else endPayload p (k.gather (crcPayloadBit p k.length) [bit]) := by
  simp [receive, h, readPayloadBit, endPayload, gather, search]

/-- SYNCED takes a bit as READING_LENGTH does: it is the first bit of the length field (log 12). -/
theorem PacketSink.receive_synced {k : PacketSink} (h : k.phase = .synced) (p : FrameParams)
    (bit : Bool) : k.receive p bit = { k with phase := .readingLength }.receive p bit := by
  simp [receive, h, readLengthBit, search]

/-- The tokens of a whole field: where each bit but the last only gathers, the last ends the field
on all that has gathered. -/
theorem PacketSink.receiveTokens_field {p : FrameParams} {phase : SinkPhase} {len size : Nat}
    {crcBit : Nat → Nat → Bool → Nat} {atEnd : PacketSink → PacketSink × List BusMessage}
    (hBit : ∀ (j : PacketSink) (bit : Bool), j.phase = phase → j.length = len →
      j.receive p bit =
        if j.acc.length + 1 < size then (j.gather crcBit [bit], [])
        else atEnd (j.gather crcBit [bit]))
    {ws : List DecWord} (hws : ws ≠ []) {k : PacketSink} (hPhase : k.phase = phase)
    (hLen : k.length = len) (hSize : k.acc.length + ws.length = size) :
    k.receiveTokens p ws = atEnd (k.gather crcBit (ws.map decisionHard)) := by
  induction ws generalizing k with
  | nil => contradiction
  | cons w ws ih =>
    rw [List.length_cons] at hSize
    rw [receiveTokens, hBit k _ hPhase hLen]
    by_cases hLast : ws = []
    · subst hLast
      rw [if_neg (by rw [← hSize]; simp)]
      simp [receiveTokens]
    · have hMore : 0 < ws.length := List.length_pos_iff.mpr hLast
      have hRest := ih (k := k.gather crcBit [decisionHard w]) hLast hPhase hLen
        (by simp only [gather, List.length_append, List.length_singleton]; omega)
      rw [if_pos (by omega)]
      simp only [hRest, gather_gather, List.nil_append, List.singleton_append, List.map_cons]

/-- R289: from SYNCED, eight tokens are the length field. -/
theorem PacketSink.receiveTokens_lengthField {k : PacketSink} (p : FrameParams)
    {ws : List DecWord} (hPhase : k.phase = .synced) (hAcc : k.acc = []) (hLen : ws.length = 8) :
    k.receiveTokens p ws =
      endLengthField p ({ k with phase := .readingLength }.gather (fun _ => crcLengthBit p)
        (ws.map decisionHard)) := by
  have hws : ws ≠ [] := List.ne_nil_of_length_eq_add_one hLen
  calc k.receiveTokens p ws
      = { k with phase := .readingLength }.receiveTokens p ws := by
        obtain ⟨w, us, rfl⟩ := List.exists_cons_of_ne_nil hws
        rw [receiveTokens, receiveTokens, receive_synced hPhase]
    _ = _ := receiveTokens_field (fun j bit hj _ => receive_readingLength hj p bit) hws rfl rfl
        (by rw [hAcc, hLen, List.length_nil])

/-- R291: in READING_PAYLOAD, as many bytes as the length counter says are the payload. -/
theorem PacketSink.receiveTokens_payload {k : PacketSink} (p : FrameParams)
    {ws : List DecWord} (hPhase : k.phase = .readingPayload) (hAcc : k.acc = [])
    (hPos : k.length ≠ 0) (hLen : ws.length = 8 * k.length) :
    k.receiveTokens p ws =
      endPayload p (k.gather (crcPayloadBit p k.length) (ws.map decisionHard)) :=
  receiveTokens_field (fun j bit hj hjLen => hjLen ▸ receive_readingPayload hj p bit)
    (List.ne_nil_of_length_pos (by omega)) hPhase rfl
    (by rw [hAcc, hLen, List.length_nil, Nat.zero_add])

/-- The CRC counter takes every bit of the length field alike, so their numbers do not count. -/
theorem foldl_zipIdx_crcLengthBit (p : FrameParams) (bits : List Bool) (i r : Nat) :
    (bits.zipIdx i).foldl (fun r b => crcLengthBit p r b.1) r = bits.foldl (crcLengthBit p) r := by
  rw [← List.foldl_map (f := Prod.fst) (g := crcLengthBit p), List.zipIdx_map_fst]

/-- Settles O60: the length field, then the payload where there is one. -/
theorem packetSynchronizerReadsOneFrame : Obligations.PacketSynchronizerReadsOneFrame := by
  intro p k header body n hPhase hAcc hHeader hLength
  have hHard : (fun w : DecWord => w.getLsbD 17) = decisionHard := rfl
  rw [hHard] at hLength ⊢
  have hField := PacketSink.receiveTokens_lengthField p hPhase hAcc hHeader
  simp only [endLengthField, PacketSink.gather, hAcc, List.nil_append, hLength,
    foldl_zipIdx_crcLengthBit] at hField
  refine ⟨fun hMax hBody => ?_, fun hMax => ?_⟩
  · rw [if_neg (Nat.not_lt.mpr hMax)] at hField
    rw [PacketSink.receiveTokens_append, List.map_append, List.foldl_append]
    by_cases hZero : n = 0
    · subst hZero
      obtain rfl : body = [] := List.length_eq_zero_iff.mp hBody
      rw [hField, if_pos rfl]
      simp [PacketSink.receiveTokens, PacketSink.search, groupBytes]
    · rw [hField, if_neg hZero, PacketSink.receiveTokens_payload p rfl rfl hZero hBody]
      exact congrArg (fun message => (_, [message])) (if_congr (or_iff_right hZero).symm rfl rfl)
  · rw [hField, if_pos hMax]
    rfl

end Sys2Proof.Machine
end

section
/-! The exceptions (60_exceptions.md): a unit with no enabled step waits (R338), no event ends a run (R320), and each
event has its operations (R321). -/

namespace Sys2Proof.Machine

/-- Settles O9: the unit lacks its token, or the operation its word selects is not enabled. -/
theorem unitWithNoEnabledStepKeepsTheState : Obligations.UnitWithNoEnabledStepKeepsTheState :=
  fun _ _ => unitStep_of_not_unitEnabled

/-- Settles O31: the environment's turns answer a state, and so does the operation that a fetched word selects. -/
theorem everyStepAnswersANextState : Obligations.EveryStepAnswersANextState := by
  intro s
  obtain ⟨-, he⟩ | ⟨_, i, -, -, he⟩ := stepTurn_cases (takeTurn s).1 (takeTurn s).2
  · exact ⟨_, he⟩
  · obtain ⟨t, ht⟩ := exec_answers i (takeTurn s).2
    exact ⟨t, he.trans ht⟩

/-- The event's row in the table of R321: the operations that can raise it. -/
def RaisedBy (i : Instr) : Event → Prop
  | .loopDiv => i = .trcEmit
  | .zeroMag => unitOf i = some .qdm
  | .intSat => i = .trcEmit
  | .badCmd => ∃ wdata, i = .cmdRsvd wdata
  | .badAddr => ∃ addr wdata, i = .hostRd addr wdata ∨ i = .hostWrOther addr wdata

/-- Every flag that is 0 in `f` and 1 in `g` is that of an event in `p`. -/
def OnlyRaises (p : Event → Prop) (f g : BitVec 5) : Prop :=
  ∀ e, f.getLsbD (eventCode e) = false → g.getLsbD (eventCode e) = true → p e

theorem eventCode_injective : Function.Injective eventCode := by
  intro a b h
  cases a <;> cases b <;> cases h <;> rfl

theorem OnlyRaises.refl (p : Event → Prop) (f : BitVec 5) : OnlyRaises p f f :=
  fun _ hOff hOn => absurd (hOff.symm.trans hOn) Bool.false_ne_true

theorem OnlyRaises.zero (p : Event → Prop) (f : BitVec 5) : OnlyRaises p f 0 :=
  fun _ _ hOn => absurd (BitVec.getLsbD_zero.symm.trans hOn) Bool.false_ne_true

theorem OnlyRaises.setFlag {p : Event → Prop} {f g : BitVec 5} (h : OnlyRaises p f g) {e : Event}
    (he : p e) : OnlyRaises p f (setFlag e g) := by
  intro e' hOff hOn
  rw [setFlag_bit, Bool.or_eq_true, decide_eq_true_iff] at hOn
  obtain hOn | ⟨-, hCode⟩ := hOn
  · exact h e' hOff hOn
  · rwa [eventCode_injective hCode]

theorem OnlyRaises.setFlagIf {p : Event → Prop} {f g : BitVec 5} (h : OnlyRaises p f g) (c : Bool)
    {e : Event} (he : p e) : OnlyRaises p f (setFlagIf c e g) := by
  cases c
  · exact h
  · exact h.setFlag he

theorem OnlyRaises.clearFlags {p : Event → Prop} {f g : BitVec 5} (h : OnlyRaises p f g)
    (mask : BitVec 5) : OnlyRaises p f (clearFlags mask g) := by
  intro e hOff hOn
  rw [clearFlags_bit, Bool.and_eq_true] at hOn
  exact h e hOff hOn.1

/-- An operation turns on no flag but those of the events whose rows name it. -/
theorem exec_onlyRaises {i : Instr} {s t : State} (h : exec i s = .next t) :
    OnlyRaises (RaisedBy i) s.sticky t.sticky := by
  have hRefl := OnlyRaises.refl (RaisedBy i) s.sticky
  cases i with
  | qdmStep im re =>
    obtain ⟨-, rfl⟩ | ⟨-, rfl⟩ := execQdmStep_cases h
    · exact hRefl.setFlagIf _ rfl
    · exact hRefl
  | trcEmit =>
    obtain ⟨-, rfl⟩ | ⟨-, rfl⟩ := execTrcEmit_cases h
    · have hIntSat : RaisedBy .trcEmit .intSat := rfl
      have hLoopDiv : RaisedBy .trcEmit .loopDiv := rfl
      exact (hRefl.setFlagIf _ hIntSat).setFlagIf _ hLoopDiv
    · exact hRefl
  | hostRd addr wdata =>
    obtain ⟨v, -, rfl⟩ | ⟨-, rfl⟩ := execHostRd_cases (wdata := wdata) h
    · exact hRefl
    · exact hRefl.setFlag ⟨addr, wdata, .inl rfl⟩
  | hostWrOther addr wdata =>
    cases h
    exact hRefl.setFlag ⟨addr, wdata, .inr rfl⟩
  | cmdRsvd wdata =>
    cases h
    exact hRefl.setFlag ⟨wdata, rfl⟩
  | hostWrStatus wdata =>
    cases h
    exact hRefl.clearFlags _
  | reset =>
    cases h
    exact .zero _ _
  | sprLoad _ | sprEmit _ | pshLoad _ _ | pshEmit _ | dctStep _ =>
    have hf := exec_unitFrame rfl h
    rwa [hf]
  | trcShift dcc => obtain ⟨-, rfl⟩ | ⟨-, rfl⟩ := execTrcShift_cases h <;> exact hRefl
  | cmdNop | cmdRestartTx | cmdRestartRx | cmdRestartAll | hostWrCtrl _ | hostWrDctAlpha _
  | hostWrTrcGainMu _ | hostWrTrcGainOmega _ | hostWrTrcOmegaMid _ | hostWrTrcOmegaRlim _
  | hostWrTrcMuInit _ =>
    cases h
    exact hRefl

/-- Settles O42: the five rows of R321, each read at the bit of its event. -/
theorem eventsAreRaisedOnlyByTheirOperations :
    Obligations.EventsAreRaisedOnlyByTheirOperations := by
  intro i s t h
  have hRaises := exec_onlyRaises h
  exact ⟨hRaises .loopDiv, hRaises .zeroMag, hRaises .intSat, hRaises .badCmd, hRaises .badAddr⟩

end Sys2Proof.Machine
end

section
/-! The reset (70_reset_and_hazards.md R350): the state it leaves, and the handshake outputs while `rst` is 1. -/

namespace Sys2Proof.Machine

/-! ## The outputs under reset -/

@[simp] theorem symInReady_rst (s : State) : symInReady true s = false := rfl

@[simp] theorem rxsInReady_rst (s : State) : rxsInReady true s = false := rfl

@[simp] theorem txsOutValid_rst (s : State) : txsOutValid true s = false := rfl

@[simp] theorem decOutValid_rst (s : State) : decOutValid true s = false := rfl

@[simp] theorem hReady_rst (willing : Bool) : hReady true willing = false := rfl

/-! ## The state after reset -/

theorem stepTurn_rst (s : State) : stepTurn .rst s = exec .reset s := rfl

/-- The start of a stream is taken from registers that the transmit half does not hold. -/
theorem trcAtStart_restartTx (s : State) : trcAtStart (restartTx s) = trcAtStart s := rfl

/-- The configuration is written before the receive half restarts, so TRC starts from the default `mu` and `omega`,
which are those of R60. -/
theorem trcAtStart_configDefaults (s : State) :
    trcAtStart (configDefaults s) = State.reset.trc := rfl

/-- Settles O21: the defaults cover the configuration, the transmit restart its half, and the receive restart, which
reads those defaults, the rest of the core. -/
theorem resetLeavesTheResetState : Obligations.ResetLeavesTheResetState := by
  refine fun s => ⟨?_, stepTurn_rst s, symInReady_rst s, rxsInReady_rst s, txsOutValid_rst s,
    decOutValid_rst s, hReady_rst⟩
  rw [exec_reset, resetCore, restartBoth, restartRx, trcAtStart_restartTx,
    trcAtStart_configDefaults]
  rfl

end Sys2Proof.Machine
end
